-- ==== Sys2Proof/Word.lean ====
section
/-! DEFINITION. The widths of SPI-LINK's quantities: a byte of the wire or of BUF, a 32-bit host register,
and the bits of a byte in wire order. -/

namespace Sys2Proof

/-- One byte: a unit of the wire, a cell of BUF, an 8-bit operand (spec/00_scope R7). -/
abbrev Byte := BitVec 8

/-- One host register, 32 bits (spec/10_state R10). -/
abbrev Word := BitVec 32

end Sys2Proof
end

