-- ==== Sys2Proof/Config.lean ====
section
/-! DEFINITION. What an implementation fixes (spec/00_scope R6), the constants the spec states, the events of the
wire trace, and the free values: constants with no body, of which nothing can be proved. -/

namespace Sys2Proof

/-- One event of the wire trace (spec/00_scope R8, spec/10_state R30). -/
inductive Event where
  /-- `SEL`: chip-select asserted. -/
  | sel
  /-- `DSL`: chip-select deasserted. -/
  | dsl
  /-- `W(b)`: byte `b` clocked out on MOSI. -/
  | w (b : Byte)
  /-- `R(v)`: byte `v` clocked in from MISO. -/
  | r (v : Byte)
  /-- `D(t)`: `t` TICK passed. -/
  | d (t : Nat)
  deriving DecidableEq, Repr

namespace Config

/-- The parameters of one SPI-LINK that a rule depends on (spec/00_scope R6). -/
structure Params where
  /-- BUF_CAP less 64: the capacity is 64 to 255 by construction (D25). -/
  bufExtra : Fin 192
  /-- STATUS_REQ, OPEN (D10). -/
  statusReq : Byte
  /-- TX_PREFIX (D11). -/
  txPrefix : List Byte
  /-- RX_PREFIX (D11). -/
  rxPrefix : List Byte
  /-- CPOL, the rest level of SCK (D8). -/
  cpol : Bool
  /-- CPHA, `false` where data is sampled on the leading edge (D8). -/
  cpha : Bool
  /-- TICK, OPEN (D15): the length of the time unit, counted in any unit of real time (log entry 13). -/
  tick : Nat
  /-- HOST_BASE, OPEN (D1): the host's address of register 0 (log entry 14). -/
  hostBase : Nat
  /-- HOST_STRIDE, OPEN (D1): from one register's address to the next's (log entry 14). -/
  hostStride : Nat
  deriving DecidableEq, Repr

/-- BUF_CAP, 64 to 255 (spec/00_scope R6). -/
def Params.bufCap (p : Params) : Nat := 64 + p.bufExtra.val

/-- STATUS_REQ has no value in the spec (N1, D10). A FREE VALUE (log entry 4): every claim holds for each byte. -/
opaque statusReq : Byte

/-- TICK has no value in the spec (D15). A FREE VALUE (log entry 13): every claim holds for each length. -/
opaque tick : Nat

/-- HOST_BASE has no value in the spec (D1). A FREE VALUE (log entry 14): every claim holds for each address. -/
opaque hostBase : Nat

/-- HOST_STRIDE has no value in the spec (D1). A FREE VALUE (log entry 14): every claim holds for each stride. -/
opaque hostStride : Nat

/-- The parameters at the spec's defaults, the OPEN ones left open (spec/00_scope R6). -/
def defaults : Params where
  bufExtra := 0
  statusReq := statusReq
  txPrefix := []
  rxPrefix := []
  cpol := false
  cpha := false
  tick := tick
  hostBase := hostBase
  hostStride := hostStride

/-- The byte the device drives after a given trace, under no law (spec/10_state R31). A FREE VALUE (log entry 2). -/
opaque device : List Event → Byte

/-- The byte read from a BUF index that nothing has written since reset, by use and index
(spec/10_state R22, U4). A FREE VALUE (log entry 3). -/
opaque unwritten : Nat → Nat → Byte

/-- MAX_PAYLOAD: the most payload bytes the encoder takes (spec/00_scope R6). -/
def maxPayload : Nat := 62

/-- POLL_INTERVAL in TICK (spec/00_scope R6). -/
def pollInterval : Nat := 10

/-- READY_VALUE: the status byte that means ready (spec/00_scope R6). -/
def readyValue : Byte := 0x01

end Config

end Sys2Proof
end

