-- ==== Sys2Proof/Machine/Operands.lean ====
section
/-! DEFINITION. The operand checks: what BadArg is, before any effect (spec/20_memory R44, spec/60_exceptions R181). -/

namespace Sys2Proof.Machine

/-- An index operand that BUF has not (STB, LDB: R170, R171). -/
def badIndex (p : Config.Params) (i : Byte) : Bool := decide (p.bufCap ≤ i.toNat)

/-- A payload length the encoder refuses (TXC, CMD: R117, R150). -/
def badLength (len : Byte) : Bool := decide (Config.maxPayload < len.toNat)

/-- A byte count that is zero or more than BUF holds (DEC, RDF: R121, R154). -/
def badCount (p : Config.Params) (n : Byte) : Bool := decide (n.toNat = 0) || decide (p.bufCap < n.toNat)

/-- The zero timeout (WRDY, CMD: R145, R150). -/
def badTimeout (t : BitVec 16) : Bool := decide (t.toNat = 0)

end Sys2Proof.Machine
end

