-- ==== Sys2Proof/Machine/Flags.lean ====
section
/-! DEFINITION. Every computed check of SPI-LINK: the two checksums, the frame function, the decoder with its
error kinds, the ready test and the acknowledgement test. Pure functions of bytes. -/

namespace Sys2Proof.Machine

/-- The two's complement of a byte (spec/00_scope R7, spec/41_frame_codec R115). -/
def neg8 (v : Byte) : Byte := BitVec.ofNat 8 ((256 - v.toNat % 256) % 256)

/-- The sum of bytes modulo 256, 0 for none (spec/00_scope R7). -/
def sum8 : List Byte → Byte
  | [] => 0
  | b :: bs => b + sum8 bs

/-- DIR of every frame SPI-LINK builds (spec/30_encoding R66). -/
def dirHostToDevice : Byte := 0xD4

/-- DIR of a response frame (spec/30_encoding R66). -/
def dirDeviceToHost : Byte := 0xD5

/-- Preamble, start-code-1, start-code-2 (spec/30_encoding R62). -/
def startBytes : List Byte := [0x00, 0x00, 0xFF]

/-- The last byte of a frame (spec/30_encoding R62). -/
def postamble : Byte := 0x00

/-- LEN for a payload of `n` bytes: DIR is counted (spec/30_encoding R65). -/
def lenByte (n : Nat) : Byte := BitVec.ofNat 8 (n + 1)

/-- The frame for direction byte `d` and payload `P` (spec/41_frame_codec R111). -/
def frame (d : Byte) (payload : List Byte) : List Byte :=
  startBytes ++ [lenByte payload.length, neg8 (lenByte payload.length), d] ++ payload
    ++ [neg8 (d + sum8 payload), postamble]

/-- `encodeFrame(P)` (spec/41_frame_codec R112). -/
def encodeFrame (payload : List Byte) : List Byte := frame dirHostToDevice payload

/-- `encodeCommand(opcode, params)` (spec/41_frame_codec R112). -/
def encodeCommand (opcode : Byte) (params : List Byte) : List Byte := encodeFrame (opcode :: params)

/-- The six acknowledgement bytes (spec/30_encoding R63, spec/42_protocol_engine R147). -/
def ackBytes : List Byte := [0x00, 0x00, 0xFF, 0x00, 0xFF, 0x00]

/-- The acknowledgement test: all six bytes compared (spec/42_protocol_engine R148). -/
def isAck (bytes : List Byte) : Bool := bytes == ackBytes

/-- The ready test on a status byte, the whole byte compared (spec/42_protocol_engine R143). -/
def isReady (s : Byte) : Bool := s == Config.readyValue

/-- The decoder's four error kinds (spec/41_frame_codec R120). -/
inductive FrameError where
  | preambleMismatch
  | lengthChecksumMismatch
  | payloadChecksumMismatch
  | shortFrame
  deriving DecidableEq, Repr

/-- What the decoder returns (spec/41_frame_codec R120). -/
inductive Decoded where
  | ok (dir : Byte) (payload : List Byte)
  | error (e : FrameError)
  deriving DecidableEq, Repr

/-- The decode function, its checks in the spec's order; `raw` holds the `n` bytes (spec/41_frame_codec R120). -/
def decodeFrame (raw : List Byte) : Decoded :=
  if raw.length < 3 then .error .shortFrame
  else if raw.take 3 ≠ startBytes then .error .preambleMismatch
  else if raw.length < 5 then .error .shortFrame
  else if raw.getD 3 0 + raw.getD 4 0 ≠ 0 then .error .lengthChecksumMismatch
  else if raw.getD 3 0 = 0 then .error .shortFrame
  else if raw.length < 6 + (raw.getD 3 0).toNat then .error .shortFrame
  else if sum8 ((raw.drop 5).take ((raw.getD 3 0).toNat + 1)) ≠ 0 then .error .payloadChecksumMismatch
  else .ok (raw.getD 5 0) ((raw.drop 6).take ((raw.getD 3 0).toNat - 1))

end Sys2Proof.Machine
end

