-- ==== Sys2Proof/Machine/State.lean ====
section
/-! DEFINITION. The state of SPI-LINK as plain data: all that spec/10_state R10 gives it, its parameters (R33), the
record of what it did on its pins (R30), and the two agents beside it, the host's coming actions and the device's
coming bytes. Also the reasons a step can stop, and the state after reset. -/

namespace Sys2Proof.Machine

/-- ENG, the state of the request state machine (spec/10_state R14); value 7 is never held (U6). -/
inductive Eng where
  | idle
  | commandSent
  | awaitingReady1
  | ackValidated
  | awaitingReady2
  | complete
  | failed
  deriving DecidableEq, Repr

/-- RESULT, the outcome of the latest finished operation (spec/60_exceptions R181); 9 to 15 are never written. -/
inductive Code where
  | ok
  | timeout
  | ackMismatch
  | preambleMismatch
  | lengthChecksumMismatch
  | payloadChecksumMismatch
  | shortFrame
  | badArg
  | badOp
  deriving DecidableEq, Repr

/-- The four host registers, numbers 0 to 3 (spec/10_state R10, spec/20_memory R40). -/
inductive Reg where
  | cmdw
  | status
  | rdata
  | rxinfo
  deriving DecidableEq, Repr

/-- One event at the pins, finer than the wire trace (spec/40_bus_transport R91, R94, R95). -/
inductive PinEvent where
  /-- SS is driven to a level. -/
  | ss (level : Bool)
  /-- SCK is driven to a level. -/
  | sck (level : Bool)
  /-- MOSI is driven to a level. -/
  | mosi (level : Bool)
  /-- MISO is sampled and has a level. -/
  | sample (level : Bool)
  deriving DecidableEq, Repr

/-- What the host does while an operation runs (spec/70_reset_and_hazards R232). -/
inductive BusyTouch where
  /-- A read of a register. -/
  | read (reg : Reg)
  /-- A write of a register. -/
  | write (reg : Reg) (w : Word)
  /-- RST, after `slots` bit slots of the byte then being moved (R211). -/
  | reset (slots : Nat)
  deriving DecidableEq, Repr

/-- A touch and when it comes: after so many further wire events of the running operation (log entry 10). -/
structure BusyAct where
  after : Nat
  touch : BusyTouch
  deriving DecidableEq, Repr

/-- The host's actions (spec/70_reset_and_hazards R232), and the one transaction on the wire that the opcode
table's wire-format rows name (log entry 6). -/
inductive HostAct where
  /-- A read of a register. -/
  | read (reg : Reg)
  /-- A write of a register; `meanwhile` is what the host does while the operation that a write of CMDW starts runs. -/
  | write (reg : Reg) (w : Word) (meanwhile : List BusyAct)
  /-- RST while no operation runs (R210). -/
  | reset
  /-- One transaction in the wire format these bytes are (no act of R232: log entry 6). -/
  | wire (bytes : List Byte)
  deriving DecidableEq, Repr

/-- The written bytes of BUF: pairs of index and byte, indices strictly rising. An index that is not listed has not
been written since reset. -/
abbrev Memory := List Host.Cell

/-- The state. -/
structure State where
  /-- The parameters: configuration, changed by nothing (spec/10_state R33; log entry 4). -/
  par : Config.Params
  /-- The level of SS; STATUS.SSN mirrors it (spec/10_state R11, R19). -/
  ss : Bool
  /-- The level of SCK (spec/10_state R11). -/
  sck : Bool
  /-- The level of MOSI (spec/10_state R11). -/
  mosi : Bool
  /-- STATUS.BUSY (spec/10_state R17). -/
  busy : Bool
  /-- STATUS.READY (spec/10_state R16). -/
  ready : Bool
  /-- STATUS.OVR (spec/10_state R18). -/
  ovr : Bool
  /-- STATUS.ENG (spec/10_state R14). -/
  eng : Eng
  /-- STATUS.RESULT (spec/10_state R15). -/
  result : Code
  /-- RDATA.DATA (spec/10_state R20). -/
  rdata : Byte
  /-- RXINFO.RXDIR (spec/10_state R21). -/
  rxDir : Byte
  /-- RXINFO.RXLEN (spec/10_state R21). -/
  rxLen : Byte
  /-- RXINFO.RXVALID (spec/10_state R21). -/
  rxValid : Bool
  /-- The written bytes of BUF (spec/10_state R22). -/
  buf : Memory
  /-- The wire trace, oldest first: the model's record (spec/10_state R30). -/
  trace : List Event
  /-- The same run at the pins, oldest first: the model's record (log entry 5). -/
  wave : List PinEvent
  /-- The bytes the device drives next, first first; past its end the free value answers (R31; log entry 2). -/
  dev : List Byte
  /-- The host's coming actions, first first (log entry 1). -/
  host : List HostAct
  /-- What the host's register reads returned, oldest first: the model's record (log entry 5). -/
  answers : List (Reg × Word)
  /-- How many operations and resets have been: the index of the free values of unwritten bytes (log entry 3). -/
  draw : Nat
  deriving DecidableEq, Repr

/-- Why the machine stops with a fault: for no reason. SPI-LINK has no faults, traps or stops, a failure is a code in
RESULT (spec/60_exceptions R180), so no meaning raises one. -/
inductive Fault where
  deriving DecidableEq, Repr

/-- Why an instruction is refused. -/
inductive Refusal where
  /-- Raised by no arm: every constructor of Instr has its meaning. Safe. -/
  | notModelled (mnemonic : String)
  /-- Raised by the step on a `HostAct.wire` whose bytes are none of the three wire formats (log entry 17).
  Safe: no act of the host or of the device makes it. -/
  | notAWireFormat
  deriving DecidableEq, Repr

/-- The outcome of an instruction or of a step. -/
abbrev Result := Host.Outcome State Fault Refusal

/-- The state after reset (spec/10_state R32, spec/70_reset_and_hazards R210), with the default parameters and
nothing recorded, nothing to come. -/
def State.reset : State where
  par := Config.defaults
  ss := true
  sck := Config.defaults.cpol
  mosi := false
  busy := false
  ready := false
  ovr := false
  eng := .idle
  result := .ok
  rdata := 0
  rxDir := 0
  rxLen := 0
  rxValid := false
  buf := []
  trace := []
  wave := []
  dev := []
  host := []
  answers := []
  draw := 0

end Sys2Proof.Machine
end

