-- ==== Sys2Proof/Machine/Ops.lean ====
section
/-! DEFINITION. The named operations over SPI-LINK's state: BUF, the pins and the five primitives, the registers as
the host reads them, the acceptance and the finish of an operation (the one way every operation ends, well or badly),
and reset. -/

namespace Sys2Proof.Machine

/-! ### The scratch buffer (spec/10_state R22, spec/20_memory R41, R44) -/

/-- The byte written at an index, or `none` where nothing has been written since reset. -/
def Memory.get? : Memory → Nat → Option Byte
  | [], _ => none
  | (a, b) :: rest, i => if a = i then some b else Memory.get? rest i

/-- Write one byte; the list stays sorted and holds each index once. -/
def Memory.set : Memory → Nat → Byte → Memory
  | [], i, v => [(i, v)]
  | (a, b) :: rest, i, v =>
    if i < a then (i, v) :: (a, b) :: rest
    else if i = a then (i, v) :: rest
    else (a, b) :: Memory.set rest i v

/-- Every index of the list lies above `lo`, and the indices rise strictly. -/
def Memory.risesFrom : Nat → Memory → Bool
  | _, [] => true
  | lo, (a, _) :: rest => decide (lo ≤ a) && Memory.risesFrom (a + 1) rest

/-- The canonical form: indices strictly rising. An unlisted index has no value, so no listed byte is redundant. -/
def Memory.wf (m : Memory) : Bool := Memory.risesFrom 0 m

/-- Every listed index exists in a buffer of `cap` bytes (spec/10_state R22). -/
def Memory.within (cap : Nat) (m : Memory) : Bool := m.all fun c => decide (c.1 < cap)

/-- `BUF[i]`: the written byte, or a free value where nothing has been written since reset (R22, U4). U4's words
'Never zero' are read as 'never taken to be zero': the free value may be any byte, 0x00 too, so that nothing can be
proved of it. A choice of the model (DESIGN CHOICE, log entry 3). -/
def bufByte (s : State) (i : Nat) : Byte := (s.buf.get? i).getD (Config.unwritten s.draw i)

/-- `BUF[i] .. BUF[i + n - 1]`, ascending. -/
def bufBytes (s : State) : Nat → Nat → List Byte
  | _, 0 => []
  | i, n + 1 => bufByte s i :: bufBytes s (i + 1) n

/-- `BUF[i] <- v`. -/
def bufStore (i : Nat) (v : Byte) (s : State) : State := { s with buf := s.buf.set i v }

/-! ### The pins (spec/10_state R11, spec/40_bus_transport R91) -/

/-- Drive SS. -/
def setSs (level : Bool) (s : State) : State := { s with ss := level, wave := s.wave ++ [.ss level] }

/-- Drive SCK. -/
def setSck (level : Bool) (s : State) : State := { s with sck := level, wave := s.wave ++ [.sck level] }

/-- Drive MOSI. -/
def setMosi (level : Bool) (s : State) : State := { s with mosi := level, wave := s.wave ++ [.mosi level] }

/-- Sample MISO, whose level the device gives. -/
def sampleMiso (level : Bool) (s : State) : State := { s with wave := s.wave ++ [.sample level] }

/-- The leading edge of a bit slot (R91). -/
def leadingEdge (s : State) : State := setSck (!s.par.cpol) s

/-- The trailing edge of a bit slot: SCK back at rest (R91). -/
def trailingEdge (s : State) : State := setSck s.par.cpol s

/-- One bit slot of a write: with CPHA = 0 the bit is set before the leading edge, with CPHA = 1 at it (R91). -/
def writeSlot (bit : Bool) (s : State) : State :=
  if s.par.cpha then trailingEdge (setMosi bit (leadingEdge s)) else trailingEdge (leadingEdge (setMosi bit s))

/-- One bit slot of a read: with CPHA = 0 MISO is sampled on the leading edge, with CPHA = 1 on the trailing (R91). -/
def readSlot (level : Bool) (s : State) : State :=
  if s.par.cpha then sampleMiso level (trailingEdge (leadingEdge s)) else trailingEdge (sampleMiso level (leadingEdge s))

/-- The bits of a byte in wire order, bit 0 first (spec/20_memory R42, spec/30_encoding R61). -/
def wireBits (b : Byte) : List Bool :=
  [b.getLsbD 0, b.getLsbD 1, b.getLsbD 2, b.getLsbD 3, b.getLsbD 4, b.getLsbD 5, b.getLsbD 6, b.getLsbD 7]

/-- The byte whose bits came in wire order, bit 0 first (spec/40_bus_transport R95). -/
def byteOfWireBits (levels : List Bool) : Byte :=
  levels.foldr (fun level b => (b <<< 1) ||| (BitVec.ofBool level).setWidth 8) 0

/-- The bit slots of a write, in time order. -/
def writeSlots (bits : List Bool) (s : State) : State := bits.foldl (fun s bit => writeSlot bit s) s

/-- The bit slots of a read, in time order. -/
def readSlots (levels : List Bool) (s : State) : State := levels.foldl (fun s level => readSlot level s) s

/-! ### The primitives (spec/00_scope R8) -/

/-- Append one event to the wire trace (spec/10_state R30). -/
def record (e : Event) (s : State) : State := { s with trace := s.trace ++ [e] }

/-- `Select()` (spec/40_bus_transport R92). -/
def select (s : State) : State := record .sel (setSs false s)

/-- `Deselect()` (spec/40_bus_transport R93). -/
def deselect (s : State) : State := record .dsl (setSs true s)

/-- `SpiWrite(b)` (spec/40_bus_transport R94). -/
def spiWrite (b : Byte) (s : State) : State := record (.w b) (writeSlots (wireBits b) s)

/-- The byte the device drives next (spec/10_state R31; log entry 2). -/
def deviceByte (s : State) : Byte := s.dev.headD (Config.device s.trace)

/-- The byte `SpiRead()` returns: the eight sampled levels, bit 0 first (spec/40_bus_transport R95). -/
def spiReadValue (s : State) : Byte := byteOfWireBits (wireBits (deviceByte s))

/-- What `SpiRead()` does to the state; the device's byte is consumed (spec/40_bus_transport R95, spec/20_memory R45). -/
def spiRead (s : State) : State :=
  let t := record (.r (spiReadValue s)) (readSlots (wireBits (deviceByte s)) s)
  { t with dev := s.dev.tail }

/-- `Delay(t)`: the pins do not move (spec/42_protocol_engine R146). -/
def delay (t : Nat) (s : State) : State := record (.d t) s

/-! ### The registers -/

/-- The 3-bit encoding of ENG (spec/10_state R14). -/
def Eng.code : Eng → BitVec 3
  | .idle => 0
  | .commandSent => 1
  | .awaitingReady1 => 2
  | .ackValidated => 3
  | .awaitingReady2 => 4
  | .complete => 5
  | .failed => 6

/-- The 4-bit encoding of RESULT (spec/60_exceptions R181). -/
def Code.code : Code → BitVec 4
  | .ok => 0
  | .timeout => 1
  | .ackMismatch => 2
  | .preambleMismatch => 3
  | .lengthChecksumMismatch => 4
  | .payloadChecksumMismatch => 5
  | .shortFrame => 6
  | .badArg => 7
  | .badOp => 8

/-- The result code of a decoder error (spec/60_exceptions R181). -/
def FrameError.code : FrameError → Code
  | .preambleMismatch => .preambleMismatch
  | .lengthChecksumMismatch => .lengthChecksumMismatch
  | .payloadChecksumMismatch => .payloadChecksumMismatch
  | .shortFrame => .shortFrame

/-- The number of a host register (spec/10_state R10). -/
def Reg.number : Reg → Nat
  | .cmdw => 0
  | .status => 1
  | .rdata => 2
  | .rxinfo => 3

/-- Where a register sits on the host's bus: HOST_BASE and HOST_STRIDE per number (spec/00_scope R6, spec/20_memory
R40). That the placement is this sum is the model's reading; no operation depends on it (log entry 14). -/
def Reg.address (p : Config.Params) (r : Reg) : Nat := p.hostBase + p.hostStride * r.number

/-- STATUS as the host reads it (spec/10_state R13). -/
def statusWord (s : State) : Word :=
  (0 : BitVec 20) ++ s.result.code ++ (0 : BitVec 1) ++ s.eng.code ++ BitVec.ofBool s.ovr ++ BitVec.ofBool s.ss
    ++ BitVec.ofBool s.ready ++ BitVec.ofBool s.busy

/-- RDATA as the host reads it (spec/10_state R20). -/
def rdataWord (s : State) : Word := (0 : BitVec 24) ++ s.rdata

/-- RXINFO as the host reads it (spec/10_state R21). -/
def rxinfoWord (s : State) : Word := (0 : BitVec 15) ++ BitVec.ofBool s.rxValid ++ s.rxLen ++ s.rxDir

/-- A host read of a register; CMDW reads 0 (spec/10_state R12, R13, R20, R21). -/
def readReg : Reg → State → Word
  | .cmdw, _ => 0
  | .status, s => statusWord s
  | .rdata, s => rdataWord s
  | .rxinfo, s => rxinfoWord s

/-- READY as a status poll that read `v` writes it (spec/10_state R16). -/
def setReady (v : Byte) (s : State) : State := { s with ready := isReady v }

/-- `ENG <- e` (spec/10_state R14). -/
def setEng (e : Eng) (s : State) : State := { s with eng := e }

/-- `RDATA.DATA <- b` (spec/10_state R20). -/
def setRdata (b : Byte) (s : State) : State := { s with rdata := b }

/-- RXINFO after a decode: all three fields of a frame, or all zero on an error (spec/10_state R21, D40). An operation
turned away with BadArg decodes nothing and does not come here (R121, R154, R181; log entry 22). -/
def setRxinfo (d : Decoded) (s : State) : State :=
  match d with
  | .ok dir payload => { s with rxDir := dir, rxLen := BitVec.ofNat 8 payload.length, rxValid := true }
  | .error _ => { s with rxDir := 0, rxLen := 0, rxValid := false }

/-- The result code a decode ends with (spec/41_frame_codec R121). -/
def Decoded.code : Decoded → Code
  | .ok _ _ => .ok
  | .error e => e.code

/-! ### The life of an operation -/

/-- A command word is accepted: BUSY rises (spec/10_state R17). -/
def accept (s : State) : State := { s with busy := true }

/-- `finish(code)`: RESULT is written and BUSY falls; this is how every operation ends, and the whole of what a
failure does by itself (spec/00_scope R7, spec/60_exceptions R180, R186). The next use of unwritten bytes draws
anew (log entry 3). -/
def finish (c : Code) (s : State) : State := { s with result := c, busy := false, draw := s.draw + 1 }

/-- A command word written while BUSY = 1: dropped, OVR set for good (spec/10_state R18). -/
def overrun (s : State) : State := { s with ovr := true }

/-- RST: the reset values of spec/10_state R32 whatever stood before (spec/70_reset_and_hazards R210, R211). The
wire trace is not touched, the pins go to their reset levels, every byte of BUF is unspecified again; parameters,
the two agents beside SPI-LINK and the records stay. -/
def hardReset (s : State) : State :=
  { State.reset with
    par := s.par
    sck := s.par.cpol
    trace := s.trace
    wave := s.wave ++ [.ss true, .sck s.par.cpol, .mosi false]
    dev := s.dev
    host := s.host
    answers := s.answers
    draw := s.draw + 1 }

end Sys2Proof.Machine
end

