-- ==== Sys2Proof/Machine/Prog.lean ====
section
/-! DEFINITION. How the spec's pseudocode is written: a program is a tree of the primitives of spec/00_scope R8 and of
the register and buffer accesses, ending in `finish`. An operation's temporaries (spec/10_state R23) are arguments of
its program. Two ways to run one: to its end, or for some wire events, which is where the host can look at or cut a
running operation. -/

namespace Sys2Proof.Machine

/-- A program. -/
inductive Prog where
  /-- `finish(code)` (R7). -/
  | finish (c : Code)
  /-- The end of a procedure run alone, which is no operation and finishes none. -/
  | done
  /-- `Select()` (R92). -/
  | select (next : Prog)
  /-- `Deselect()` (R93). -/
  | deselect (next : Prog)
  /-- `SpiWrite(b)` (R94). -/
  | write (b : Byte) (next : Prog)
  /-- `SpiRead()` (R95). -/
  | read (next : Byte → Prog)
  /-- `Delay(t)` (R146). -/
  | delay (t : Nat) (next : Prog)
  /-- `READY <- (v == 0x01)` (R141). -/
  | ready (v : Byte) (next : Prog)
  /-- `ENG <- e` (R150). -/
  | eng (e : Eng) (next : Prog)
  /-- `RDATA.DATA <- b` (R20). -/
  | rdata (b : Byte) (next : Prog)
  /-- `RXINFO <- ` what the decode gives (R121). -/
  | rxinfo (d : Decoded) (next : Prog)
  /-- `BUF[i] <- b` (R7). -/
  | store (i : Nat) (b : Byte) (next : Prog)
  /-- The byte `BUF[i]` (R7). -/
  | load (i : Nat) (next : Byte → Prog)

/-- A program run to its end. -/
def Prog.run : Prog → State → State
  | .finish c, s => Machine.finish c s
  | .done, s => s
  | .select next, s => next.run (Machine.select s)
  | .deselect next, s => next.run (Machine.deselect s)
  | .write b next, s => next.run (spiWrite b s)
  | .read next, s => (next (spiReadValue s)).run (spiRead s)
  | .delay t next, s => next.run (Machine.delay t s)
  | .ready v next, s => next.run (setReady v s)
  | .eng e next, s => next.run (setEng e s)
  | .rdata b next, s => next.run (setRdata b s)
  | .rxinfo d next, s => next.run (setRxinfo d s)
  | .store i b next, s => next.run (bufStore i b s)
  | .load i next, s => (next (bufByte s i)).run s

/-- A program run for `k` wire events and then up to the next one: the state in which the host finds a running
operation, and what is still to run. The end of the program counts as an event, so that BUSY = 1 is seen before it;
`none` says that the program ended (log entry 10). -/
def Prog.advance : Prog → Nat → State → State × Option Prog
  | .finish c, 0, s => (s, some (.finish c))
  | .finish c, _ + 1, s => (Machine.finish c s, none)
  | .done, 0, s => (s, some .done)
  | .done, _ + 1, s => (s, none)
  | .select next, 0, s => (s, some (.select next))
  | .select next, k + 1, s => next.advance k (Machine.select s)
  | .deselect next, 0, s => (s, some (.deselect next))
  | .deselect next, k + 1, s => next.advance k (Machine.deselect s)
  | .write b next, 0, s => (s, some (.write b next))
  | .write b next, k + 1, s => next.advance k (spiWrite b s)
  | .read next, 0, s => (s, some (.read next))
  | .read next, k + 1, s => (next (spiReadValue s)).advance k (spiRead s)
  | .delay t next, 0, s => (s, some (.delay t next))
  | .delay t next, k + 1, s => next.advance k (Machine.delay t s)
  | .ready v next, k, s => next.advance k (setReady v s)
  | .eng e next, k, s => next.advance k (setEng e s)
  | .rdata b next, k, s => next.advance k (setRdata b s)
  | .rxinfo d next, k, s => next.advance k (setRxinfo d s)
  | .store i b next, k, s => next.advance k (bufStore i b s)
  | .load i next, k, s => (next (bufByte s i)).advance k s

/-- The bit slots of the byte a program is about to move that are still clocked before RST cuts it: at most seven, and
no wire event (spec/70_reset_and_hazards R211; log entry 11). -/
def Prog.cutByte (slots : Nat) : Prog → State → State
  | .write b _, s => writeSlots ((wireBits b).take (min slots 7)) s
  | .read _, s => readSlots ((wireBits (deviceByte s)).take (min slots 7)) s
  | .finish _, s | .done, s | .select _, s | .deselect _, s | .delay _ _, s | .ready _ _, s | .eng _ _, s
  | .rdata _ _, s | .rxinfo _ _, s | .store _ _ _, s | .load _ _, s => s

/-- `for x in xs: SpiWrite(x)`. -/
def Prog.writes : List Byte → Prog → Prog
  | [], next => next
  | b :: bs, next => .write b (Prog.writes bs next)

/-- `for i in 0 .. n-1: a[i] <- SpiRead()`. -/
def Prog.reads : Nat → (List Byte → Prog) → Prog
  | 0, next => next []
  | n + 1, next => .read fun b => Prog.reads n fun bs => next (b :: bs)

/-- The bytes `BUF[i] .. BUF[i+n-1]`. -/
def Prog.loads : Nat → Nat → (List Byte → Prog) → Prog
  | _, 0, next => next []
  | i, n + 1, next => .load i fun b => Prog.loads (i + 1) n fun bs => next (b :: bs)

end Sys2Proof.Machine
end

