-- ==== Sys2Proof/Machine/Buffer.lean ====
section
/-! DEFINITION. The scratch buffer's operations (spec/43_buffer_access R170, R171). -/

namespace Sys2Proof.Machine

/-- STB's pseudocode (R170). -/
def stbProg (p : Config.Params) (i v : Byte) : Prog :=
  if badIndex p i then .finish .badArg else .store i.toNat v (.finish .ok)

/-- LDB's pseudocode (R171). -/
def ldbProg (p : Config.Params) (i : Byte) : Prog :=
  if badIndex p i then .finish .badArg else .load i.toNat fun b => .rdata b (.finish .ok)

/-- STB i, v (R170). -/
def execStb (i v : Byte) (s : State) : Result := .next ((stbProg s.par i v).run s)

/-- LDB i (R171). -/
def execLdb (i : Byte) (s : State) : Result := .next ((ldbProg s.par i).run s)

end Sys2Proof.Machine
end

