-- ==== Sys2Proof/Machine/Codec.lean ====
section
/-! DEFINITION. The frame codec's operations (spec/41_frame_codec R116, R117, R121). -/

namespace Sys2Proof.Machine

/-- The payload loop of `TxFrame`: each staged byte is read once, sent, and added to the running checksum
(R116; spec/20_memory R41). -/
def sendPayload : Nat → Nat → Byte → (Byte → Prog) → Prog
  | _, 0, sum, next => next sum
  | i, n + 1, sum, next => .load i fun b => .write b (sendPayload (i + 1) n (sum + b) next)

/-- `TxFrame(d, len)`: one frame-write transaction; the frame is made while it is sent (R116). -/
def txFrame (p : Config.Params) (d : Byte) (len : Nat) (next : Prog) : Prog :=
  .select <| .writes p.txPrefix <| .writes startBytes <|
    .write (lenByte len) <| .write (neg8 (lenByte len)) <| .write d <|
      sendPayload 0 len d fun sum => .write (neg8 sum) <| .write postamble <| .deselect next

/-- TXC's pseudocode (R117). -/
def txcProg (p : Config.Params) (len : Byte) : Prog :=
  if badLength len then .finish .badArg else txFrame p dirHostToDevice len.toNat (.finish .ok)

/-- The decode of `BUF[0 .. n-1]` with its outcome in RXINFO and RESULT: the body of DEC and the end of RDF
(R121; spec/42_protocol_engine R154). -/
def decodeBuf (n : Nat) : Prog :=
  .loads 0 n fun raw => .rxinfo (decodeFrame raw) (.finish (decodeFrame raw).code)

/-- DEC's pseudocode (R121). A count out of range leaves RXINFO as it was (R121, R181; log entry 22). -/
def decProg (p : Config.Params) (n : Byte) : Prog :=
  if badCount p n then .finish .badArg else decodeBuf n.toNat

/-- TXC len (R117). -/
def execTxc (len : Byte) (s : State) : Result := .next ((txcProg s.par len).run s)

/-- DEC n (R121). -/
def execDec (n : Byte) (s : State) : Result := .next ((decProg s.par n).run s)

end Sys2Proof.Machine
end

