-- ==== Sys2Proof/Machine/Engine.lean ====
section
/-! DEFINITION. The protocol engine: the procedures `StatusPoll`, `WaitReady`, `ReadAck`, `RawRead` and the
operations POLL, WRDY, RACK, RDF, CMD (spec/42_protocol_engine). -/

namespace Sys2Proof.Machine

/-- `StatusPoll()` with the request byte `q`: one transaction, then READY (R141). -/
def statusPollWith (q : Byte) (next : Byte → Prog) : Prog :=
  .select <| .write q <| .read fun v => .deselect <| .ready v <| next v

/-- `StatusPoll()` (R141). -/
def statusPoll (p : Config.Params) (next : Byte → Prog) : Prog := statusPollWith p.statusReq next

/-- The loop of `WaitReady(T)` from a given `elapsed` on; `fuel` polls are at hand, which is never too few (R144):
the loop makes floor(T / 10) + 1 polls at most. -/
def waitLoop (p : Config.Params) (T : Nat) : Nat → Nat → (Bool → Prog) → Prog
  | 0, _, next => next false
  | fuel + 1, elapsed, next =>
    statusPoll p fun v =>
      if isReady v then next true
      else if elapsed + Config.pollInterval > T then next false
      else .delay Config.pollInterval (waitLoop p T fuel (elapsed + Config.pollInterval) next)

/-- `WaitReady(T)`: `true` for Ready, `false` for Timeout (R144). -/
def waitReady (p : Config.Params) (T : Nat) (next : Bool → Prog) : Prog :=
  waitLoop p T (T / Config.pollInterval + 1) 0 next

/-- `ReadAck()`: all six bytes are read, then compared (R148). -/
def readAck (p : Config.Params) (next : Bool → Prog) : Prog :=
  .select <| .writes p.rxPrefix <| .reads ackBytes.length fun a => .deselect <| next (isAck a)

/-- The loop of `RawRead`: each byte goes to BUF as it is read (R153). -/
def readInto : Nat → Nat → Prog → Prog
  | _, 0, next => next
  | i, n + 1, next => .read fun b => .store i b (readInto (i + 1) n next)

/-- `RawRead(n)`: one frame-read transaction of `n` bytes into BUF (R153). -/
def rawRead (p : Config.Params) (n : Nat) (next : Prog) : Prog :=
  .select <| .writes p.rxPrefix <| readInto 0 n <| .deselect next

/-- POLL's pseudocode (R142). -/
def pollProg (p : Config.Params) : Prog := statusPoll p fun v => .rdata v (.finish .ok)

/-- WRDY's pseudocode (R145). -/
def wrdyProg (p : Config.Params) (t : BitVec 16) : Prog :=
  if badTimeout t then .finish .badArg
  else waitReady p t.toNat fun ready => if ready then .finish .ok else .finish .timeout

/-- RACK's pseudocode (R149). -/
def rackProg (p : Config.Params) : Prog :=
  readAck p fun good => if good then .finish .ok else .finish .ackMismatch

/-- RDF's pseudocode (R154). A count out of range leaves RXINFO as it was (R154, spec/60_exceptions R181; log entry
22). -/
def rdfProg (p : Config.Params) (n : Byte) : Prog :=
  if badCount p n then .finish .badArg else rawRead p n.toNat (decodeBuf n.toNat)

/-- CMD's pseudocode, from the end of its first wait on (R150). -/
def cmdAfterWait1 (p : Config.Params) (t : BitVec 16) (ready : Bool) : Prog :=
  if !ready then .eng .failed (.finish .timeout)
  else readAck p fun good =>
    if !good then .eng .failed (.finish .ackMismatch)
    else .eng .ackValidated <| .eng .awaitingReady2 <| waitReady p t.toNat fun ready2 =>
      if !ready2 then .eng .failed (.finish .timeout) else .eng .complete (.finish .ok)

/-- CMD's pseudocode (R150, R151). -/
def cmdProg (p : Config.Params) (len : Byte) (t : BitVec 16) : Prog :=
  if badLength len || badTimeout t then .finish .badArg
  else .eng .idle <| txFrame p dirHostToDevice len.toNat <| .eng .commandSent <| .eng .awaitingReady1 <|
    waitReady p t.toNat (cmdAfterWait1 p t)

/-- POLL (R142). -/
def execPoll (s : State) : Result := .next ((pollProg s.par).run s)

/-- WRDY T (R145). -/
def execWrdy (t : BitVec 16) (s : State) : Result := .next ((wrdyProg s.par t).run s)

/-- RACK (R149). -/
def execRack (s : State) : Result := .next ((rackProg s.par).run s)

/-- RDF n (R154). -/
def execRdf (n : Byte) (s : State) : Result := .next ((rdfProg s.par n).run s)

/-- CMD len, T (R150). -/
def execCmd (len : Byte) (t : BitVec 16) (s : State) : Result := .next ((cmdProg s.par len t).run s)

end Sys2Proof.Machine
end

