-- ==== Sys2Proof/Machine/Reserved.lean ====
section
/-! DEFINITION. The reserved command words (spec/30_encoding R71): nothing on the pins, nothing to BUF, BadOp. -/

namespace Sys2Proof.Machine

/-- What every illegal word does: it finishes at once with BadOp (R71). -/
def badOpProg : Prog := .finish .badOp

/-- OP = 0x0, whatever w[31:4] holds (R71). -/
def execReservedOp0 (_ : BitVec 28) (s : State) : Result := .next (badOpProg.run s)

/-- OP = 0xE, whatever w[31:4] holds (R71). -/
def execReservedOpE (_ : BitVec 28) (s : State) : Result := .next (badOpProg.run s)

/-- OP = 0xF, whatever w[31:4] holds (R71). -/
def execReservedOpF (_ : BitVec 28) (s : State) : Result := .next (badOpProg.run s)

/-- w[7:4] not 0, whatever the other fields hold (R71). -/
def execReservedHighNibble (_ _ : BitVec 4) (_ : BitVec 24) (s : State) : Result := .next (badOpProg.run s)

end Sys2Proof.Machine
end

