-- ==== Sys2Proof/Machine/Transport.lean ====
section
/-! DEFINITION. The bus transport's operations (spec/40_bus_transport R96 to R99): none can fail (R101). -/

namespace Sys2Proof.Machine

/-- `Select(); finish(OK)` (R96). -/
def selProg : Prog := .select (.finish .ok)

/-- `Deselect(); finish(OK)` (R97). -/
def dslProg : Prog := .deselect (.finish .ok)

/-- `SpiWrite(A); finish(OK)` (R98). -/
def wrbProg (v : Byte) : Prog := .write v (.finish .ok)

/-- `RDATA.DATA <- SpiRead(); finish(OK)` (R99). -/
def rdbProg : Prog := .read fun v => .rdata v (.finish .ok)

/-- SEL (R96). -/
def execSel (s : State) : Result := .next (selProg.run s)

/-- DSL (R97). -/
def execDsl (s : State) : Result := .next (dslProg.run s)

/-- WRB v (R98). -/
def execWrb (v : Byte) (s : State) : Result := .next ((wrbProg v).run s)

/-- RDB (R99). -/
def execRdb (s : State) : Result := .next (rdbProg.run s)

end Sys2Proof.Machine
end

