-- ==== Sys2Proof/Syntax.lean ====
section
/-! DEFINITION. The one instruction type: a constructor for each row of spec/opcode_table.json. -/

namespace Sys2Proof

/-- The two DIR values the spec defines (spec/30_encoding R66). -/
inductive Direction where
  /-- 0xD4, in every frame SPI-LINK builds. -/
  | hostToDevice
  /-- 0xD5, in a response frame. -/
  | deviceToHost
  deriving DecidableEq, Repr

/-- The rows of spec/opcode_table.json: 13 operations of the command word (spec/30_encoding R70), 4 reserved
patterns of it (R71), and the 3 wire formats (R62, R63, R64). Operand fields an operation does not use are
ignored by the hardware (R69) and are not kept. -/
inductive Instr where
  /-- Assert chip-select (R96). -/
  | sel
  /-- Deassert chip-select (R97). -/
  | dsl
  /-- Write byte `v` to the wire (R98). -/
  | wrb (v : Byte)
  /-- Read one byte from the wire (R99). -/
  | rdb
  /-- Store byte `v` at BUF index `i` (R170). -/
  | stb (i v : Byte)
  /-- Load the byte at BUF index `i` (R171). -/
  | ldb (i : Byte)
  /-- Encode and transmit `len` staged payload bytes (R117). -/
  | txc (len : Byte)
  /-- Decode the first `n` bytes of BUF (R121). -/
  | dec (n : Byte)
  /-- One status poll (R142). -/
  | poll
  /-- Wait for readiness, at most `t` TICK (R145). -/
  | wrdy (t : BitVec 16)
  /-- Read and check the acknowledgement (R149). -/
  | rack
  /-- Read `n` bytes into BUF and decode them (R154). -/
  | rdf (n : Byte)
  /-- One request: `len` payload bytes, timeout `t` for each wait (R150). -/
  | cmd (len : Byte) (t : BitVec 16)
  /-- OP = 0x0; `rest` is w[31:4] (R71). -/
  | reservedOp0 (rest : BitVec 28)
  /-- OP = 0xE; `rest` is w[31:4] (R71). -/
  | reservedOpE (rest : BitVec 28)
  /-- OP = 0xF; `rest` is w[31:4] (R71). -/
  | reservedOpF (rest : BitVec 28)
  /-- w[7:4] not 0; `ab` is w[31:8] (R71). -/
  | reservedHighNibble (op r : BitVec 4) (ab : BitVec 24)
  /-- The normal frame on the wire (R62). -/
  | frame (dir : Direction) (payload : List Byte)
  /-- The acknowledgement frame on the wire (R63). -/
  | ack
  /-- The status exchange on the wire: `q` written, `r` answered by the device (R64). -/
  | statusExchange (q r : Byte)
  deriving DecidableEq, Repr

end Sys2Proof
end

