-- ==== Sys2Proof/WellFormed.lean ====
section
/-! DEFINITION. Which terms of Instr stand for bits of the opcode table. -/

namespace Sys2Proof

/-- The codes 0x0, 0xE, 0xF of OP, which have rows of their own (spec/30_encoding R71). -/
def reservedOpCode (op : BitVec 4) : Bool := op == 0x0 || op == 0xE || op == 0xF

/-- An instruction term that some bits of the table stand for: the reserved nibble is not zero and its OP is not
one of the three reserved codes (R71); a frame's payload fits LEN (R62, R111). -/
def Instr.wf : Instr → Bool
  | .reservedHighNibble op r _ => r != 0 && !reservedOpCode op
  | .frame _ payload => decide (payload.length ≤ 254)
  | .sel | .dsl | .wrb _ | .rdb | .stb _ _ | .ldb _ | .txc _ | .dec _ | .poll | .wrdy _ | .rack | .rdf _
  | .cmd _ _ | .reservedOp0 _ | .reservedOpE _ | .reservedOpF _ | .ack | .statusExchange _ _ => true

end Sys2Proof
end

