-- ==== Sys2Proof/Decode.lean ====
section
/-! DEFINITION. From bits to instructions and back: the host command word (spec/30_encoding R68 to R71), total on
all words, and the three wire formats (R62 to R64). Bytes of a fetched unit are told apart by their number: 2 are a
status exchange, 4 a command word, 6 an acknowledgement, 8 or more a frame (log entry 19). After the decoder, the
encoder written from the same tables. -/

namespace Sys2Proof

/-- Why bytes are no unit. -/
inductive Reject where
  /-- The number of bytes fits no format. -/
  | badLength
  /-- Six bytes that are not the acknowledgement constant (R63). -/
  | notAck
  /-- A frame's first three bytes are wrong (R62). -/
  | badStart
  /-- LEN and LCS do not cancel (R62). -/
  | badLengthChecksum
  /-- LEN does not agree with the number of bytes (R62). -/
  | badFrameLength
  /-- DIR is neither 0xD4 nor 0xD5 (R66). -/
  | badDirection
  /-- DCS is wrong (R62). -/
  | badPayloadChecksum
  /-- The last byte of a frame is not 0x00 (R62). -/
  | badPostamble
  deriving DecidableEq, Repr

/-- A decoded unit, or the reason there is none. -/
inductive DecodeResult where
  | ok (i : Instr)
  | reject (why : Reject)
  deriving DecidableEq, Repr

/-- The decoder of the command word, total on all 2^32 words (spec/30_encoding R68 to R71). -/
def decodeWord (w : Word) : Instr :=
  let op := w.extractLsb' 0 4
  let hi := w.extractLsb' 4 4
  let a := w.extractLsb' 8 8
  let b := w.extractLsb' 16 16
  if op = 0x0 then .reservedOp0 (w.extractLsb' 4 28)
  else if op = 0xE then .reservedOpE (w.extractLsb' 4 28)
  else if op = 0xF then .reservedOpF (w.extractLsb' 4 28)
  else if hi ≠ 0 then .reservedHighNibble op hi (w.extractLsb' 8 24)
  else if op = 0x1 then .sel
  else if op = 0x2 then .dsl
  else if op = 0x3 then .wrb a
  else if op = 0x4 then .rdb
  else if op = 0x5 then .stb a (b.extractLsb' 0 8)
  else if op = 0x6 then .ldb a
  else if op = 0x7 then .txc a
  else if op = 0x8 then .dec a
  else if op = 0x9 then .poll
  else if op = 0xA then .wrdy b
  else if op = 0xB then .rack
  else if op = 0xC then .rdf a
  else .cmd a b

/-- A command word from its four bytes, the least significant first (log entry 14). -/
def wordOfBytes (b0 b1 b2 b3 : Byte) : Word := b3 ++ b2 ++ b1 ++ b0

/-- The four bytes of a command word, the least significant first (log entry 14). -/
def bytesOfWord (w : Word) : List Byte :=
  [w.extractLsb' 0 8, w.extractLsb' 8 8, w.extractLsb' 16 8, w.extractLsb' 24 8]

/-- A DIR byte read as one of the two defined directions (spec/30_encoding R66). -/
def directionOfByte (d : Byte) : Option Direction :=
  if d = Machine.dirHostToDevice then some .hostToDevice
  else if d = Machine.dirDeviceToHost then some .deviceToHost
  else none

/-- The DIR byte of a direction (spec/30_encoding R66). -/
def Direction.byte : Direction → Byte
  | .hostToDevice => Machine.dirHostToDevice
  | .deviceToHost => Machine.dirDeviceToHost

/-- Bytes read as one whole normal frame, every fixed byte of the format checked (spec/30_encoding R62). -/
def decodeFrameUnit (bytes : List Byte) : DecodeResult :=
  let len := bytes.getD 3 0
  let payload := (bytes.drop 6).take (len.toNat - 1)
  if bytes.take 3 ≠ Machine.startBytes then .reject .badStart
  else if len + bytes.getD 4 0 ≠ 0 then .reject .badLengthChecksum
  else if len = 0 ∨ bytes.length ≠ 7 + len.toNat then .reject .badFrameLength
  else match directionOfByte (bytes.getD 5 0) with
    | none => .reject .badDirection
    | some dir =>
      if bytes.getD (5 + len.toNat) 0 ≠ Machine.neg8 (dir.byte + Machine.sum8 payload) then .reject .badPayloadChecksum
      else if bytes.getD (6 + len.toNat) 0 ≠ Machine.postamble then .reject .badPostamble
      else .ok (.frame dir payload)

/-- The decoder of a fetched unit, total on any bytes, rejecting by name. -/
def decode (bytes : List Byte) : DecodeResult :=
  match bytes with
  | [q, r] => .ok (.statusExchange q r)
  | [b0, b1, b2, b3] => .ok (decodeWord (wordOfBytes b0 b1 b2 b3))
  | [_, _, _, _, _, _] => if bytes = Machine.ackBytes then .ok .ack else .reject .notAck
  | _ => if bytes.length < 8 then .reject .badLength else decodeFrameUnit bytes

/-- The first `n` bytes of a number, the least significant first. -/
def bytesOfNat : Nat → Nat → List Byte
  | 0, _ => []
  | n + 1, w => BitVec.ofNat 8 w :: bytesOfNat n (w / 256)

/-- How many bytes the unit has whose table row gives `nbits` bits: a command word has four, whatever the row
leaves out above its fixed bits; 16 bits are a status exchange (spec/opcode_table.json). -/
def unitLength (nbits : Nat) : Nat :=
  if nbits = 16 then 2 else if nbits ≤ 32 then 4 else (nbits + 7) / 8

/-- The unit whose bits are `w`, numbered as spec/opcode_table.json numbers them, the bits above `nbits` zero. -/
def tableBytes (nbits w : Nat) : List Byte := bytesOfNat (unitLength nbits) (w % 2 ^ nbits)

/-- The instruction the decoder reads from the bits `w` of a table row (`none` where it refuses). -/
def decodeTableWord (nbits w : Nat) : Option Instr :=
  match decode (tableBytes nbits w) with
  | .ok i => some i
  | .reject _ => none

/-- CMDW from its fields: OP, A, B, the reserved nibble zero (spec/30_encoding R68, R74). -/
def commandWord (op : BitVec 4) (a : Byte) (b : BitVec 16) : Word := b ++ a ++ (0 : BitVec 4) ++ op

/-- The command word of an instruction that has one; fields it does not use are zero (spec/30_encoding R70, R74).
The three wire formats have none: `encode` does not ask for theirs. -/
def encodeWord : Instr → Word
  | .sel => commandWord 0x1 0 0
  | .dsl => commandWord 0x2 0 0
  | .wrb v => commandWord 0x3 v 0
  | .rdb => commandWord 0x4 0 0
  | .stb i v => commandWord 0x5 i (v.setWidth 16)
  | .ldb i => commandWord 0x6 i 0
  | .txc len => commandWord 0x7 len 0
  | .dec n => commandWord 0x8 n 0
  | .poll => commandWord 0x9 0 0
  | .wrdy t => commandWord 0xA 0 t
  | .rack => commandWord 0xB 0 0
  | .rdf n => commandWord 0xC n 0
  | .cmd len t => commandWord 0xD len t
  | .reservedOp0 rest => rest ++ (0x0 : BitVec 4)
  | .reservedOpE rest => rest ++ (0xE : BitVec 4)
  | .reservedOpF rest => rest ++ (0xF : BitVec 4)
  | .reservedHighNibble op r ab => ab ++ r ++ op
  | .frame _ _ | .ack | .statusExchange _ _ => 0

/-- The bytes of an instruction: four of a command word, or those of the wire format. -/
def encode (i : Instr) : List Byte :=
  match i with
  | .frame dir payload => Machine.frame dir.byte payload
  | .ack => Machine.ackBytes
  | .statusExchange q r => [q, r]
  | .sel | .dsl | .wrb _ | .rdb | .stb _ _ | .ldb _ | .txc _ | .dec _ | .poll | .wrdy _ | .rack | .rdf _
  | .cmd _ _ | .reservedOp0 _ | .reservedOpE _ | .reservedOpF _ | .reservedHighNibble _ _ _ =>
    bytesOfWord (encodeWord i)

end Sys2Proof
end

