-- ==== Sys2Proof/Machine/Wire.lean ====
section
/-! DEFINITION. The opcode table's three wire-format rows (spec/30_encoding R62, R63, R64). No host word names one:
each stands for the one transaction of R67 that carries it, the device giving the bytes that the row says it gives
(log entry 6). A transaction alone is no operation: it accepts none and finishes none. -/

namespace Sys2Proof.Machine

/-- The device will drive these bytes next, before what it would have driven. -/
def supply (bytes : List Byte) (s : State) : State := { s with dev := bytes ++ s.dev }

/-- The frame-write transaction of a given frame (R67, R116). -/
def frameWriteProg (p : Config.Params) (bytes : List Byte) : Prog :=
  .select <| .writes p.txPrefix <| .writes bytes <| .deselect .done

/-- The transaction of a frame: a frame write where SPI-LINK sends it; where the device does, a frame read of its
length, or of BUF_CAP bytes where BUF does not hold all of it (R67, R153; spec/70_reset_and_hazards R225;
log entry 8). That a frame from the host with 63 to 254 payload bytes, which no operation sends (R111, R117), is sent
whole is a choice of the model (DESIGN CHOICE, log entry 21). -/
def frameProg (p : Config.Params) (dir : Direction) (payload : List Byte) : Prog :=
  match dir with
  | .hostToDevice => frameWriteProg p (frame dir.byte payload)
  | .deviceToHost => rawRead p (min (frame dir.byte payload).length p.bufCap) .done

/-- The ACK-read transaction (R67, R148). -/
def ackProg (p : Config.Params) : Prog := readAck p fun _ => .done

/-- The status-poll transaction with READY written from its answer (R67, R141, R143); `q` is the row's STATUS_REQ
(log entry 7). -/
def statusExchangeProg (q : Byte) : Prog := statusPollWith q fun _ => .done

/-- FRAME (R62). A frame from the host goes out whole, also one with more than MAX_PAYLOAD payload bytes, which the
spec gives no transaction (a choice of the model: DESIGN CHOICE, log entry 21). The device's bytes that BUF does not
hold stay in the device (spec/70_reset_and_hazards R225; log entry 8). -/
def execFrame (dir : Direction) (payload : List Byte) (s : State) : Result :=
  match dir with
  | .hostToDevice => .next ((frameProg s.par dir payload).run s)
  | .deviceToHost => .next ((frameProg s.par dir payload).run (supply (frame dir.byte payload) s))

/-- ACK (R63). -/
def execAck (s : State) : Result := .next ((ackProg s.par).run (supply ackBytes s))

/-- STATUS_EXCHANGE (R64). -/
def execStatusExchange (q r : Byte) (s : State) : Result :=
  .next ((statusExchangeProg q).run (supply [r] s))

end Sys2Proof.Machine
end

