-- ==== Sys2Proof/Machine/Dispatch.lean ====
section
/-! DEFINITION. What each instruction does: one arm for each row of spec/opcode_table.json. -/

namespace Sys2Proof.Machine

def exec (i : Instr) (s : State) : Host.Outcome State Fault Refusal :=
  match i with
  -- bus transport (spec/40_bus_transport)
  | .sel => Sys2Proof.Machine.execSel s
  | .dsl => Sys2Proof.Machine.execDsl s
  | .wrb v => Sys2Proof.Machine.execWrb v s
  | .rdb => Sys2Proof.Machine.execRdb s
  -- scratch buffer (spec/43_buffer_access)
  | .stb idx v => Sys2Proof.Machine.execStb idx v s
  | .ldb idx => Sys2Proof.Machine.execLdb idx s
  -- frame codec (spec/41_frame_codec)
  | .txc len => Sys2Proof.Machine.execTxc len s
  | .dec n => Sys2Proof.Machine.execDec n s
  -- protocol engine (spec/42_protocol_engine)
  | .poll => Sys2Proof.Machine.execPoll s
  | .wrdy t => Sys2Proof.Machine.execWrdy t s
  | .rack => Sys2Proof.Machine.execRack s
  | .rdf n => Sys2Proof.Machine.execRdf n s
  | .cmd len t => Sys2Proof.Machine.execCmd len t s
  -- reserved command words (spec/30_encoding R71)
  | .reservedOp0 rest => Sys2Proof.Machine.execReservedOp0 rest s
  | .reservedOpE rest => Sys2Proof.Machine.execReservedOpE rest s
  | .reservedOpF rest => Sys2Proof.Machine.execReservedOpF rest s
  | .reservedHighNibble op r ab => Sys2Proof.Machine.execReservedHighNibble op r ab s
  -- wire formats (spec/30_encoding R62 to R64)
  | .frame dir payload => Sys2Proof.Machine.execFrame dir payload s
  | .ack => Sys2Proof.Machine.execAck s
  | .statusExchange q r => Sys2Proof.Machine.execStatusExchange q r s

end Sys2Proof.Machine
end

