-- ==== Sys2Proof/Machine/HostPort.lean ====
section
/-! DEFINITION. The host's side of SPI-LINK: the four registers, issuing an operation, what the host may do while it
runs, and reset (spec/10_state R12 to R24, spec/70_reset_and_hazards R211, R220, R232). -/

namespace Sys2Proof.Machine

/-- The program of an instruction: the same definitions that `exec` runs to their end, here for an operation that
the host looks at or cuts while it runs. -/
def program (i : Instr) (p : Config.Params) : Prog :=
  match i with
  | .sel => selProg
  | .dsl => dslProg
  | .wrb v => wrbProg v
  | .rdb => rdbProg
  | .stb idx v => stbProg p idx v
  | .ldb idx => ldbProg p idx
  | .txc len => txcProg p len
  | .dec n => decProg p n
  | .poll => pollProg p
  | .wrdy t => wrdyProg p t
  | .rack => rackProg p
  | .rdf n => rdfProg p n
  | .cmd len t => cmdProg p len t
  | .reservedOp0 _ => badOpProg
  | .reservedOpE _ => badOpProg
  | .reservedOpF _ => badOpProg
  | .reservedHighNibble _ _ _ => badOpProg
  | .frame dir payload => frameProg p dir payload
  | .ack => ackProg p
  | .statusExchange q _ => statusExchangeProg q

/-- Whether an instruction is a wire format and no command word (spec/opcode_table.json). -/
def isWireFormat : Instr → Bool
  | .frame _ _ | .ack | .statusExchange _ _ => true
  | .sel | .dsl | .wrb _ | .rdb | .stb _ _ | .ldb _ | .txc _ | .dec _ | .poll | .wrdy _ | .rack | .rdf _
  | .cmd _ _ | .reservedOp0 _ | .reservedOpE _ | .reservedOpF _ | .reservedHighNibble _ _ _ => false

/-- A host read: no side effect on SPI-LINK, its answer recorded (spec/10_state R24). -/
def answer (r : Reg) (s : State) : State := { s with answers := s.answers ++ [(r, readReg r s)] }

/-- A host write while BUSY = 1: of CMDW it sets OVR, of another register it does nothing (spec/10_state R12, R24). -/
def writeWhileBusy (r : Reg) (s : State) : State :=
  match r with
  | .cmdw => overrun s
  | .status | .rdata | .rxinfo => s

/-- A touch that comes when no operation runs any more. -/
def BusyTouch.afterwards : BusyTouch → HostAct
  | .read r => .read r
  | .write r w => .write r w []
  | .reset _ => .reset

/-- What the host had meant to do during an operation that is over comes next, in its order. -/
def requeue (acts : List BusyAct) (s : State) : State :=
  { s with host := acts.map (fun a => a.touch.afterwards) ++ s.host }

/-- An operation's program with the host beside it: reads see the registers as they then are (R17), a command word is
dropped and sets OVR (R18, R220), reset cuts the operation (R211). -/
def runBusy : List BusyAct → Prog → State → State
  | [], pr, s => pr.run s
  | a :: acts, pr, s =>
    match pr.advance a.after s with
    | (t, none) => requeue (a :: acts) t
    | (t, some rest) =>
      match a.touch with
      | .read r => runBusy acts rest (answer r t)
      | .write r _ => runBusy acts rest (writeWhileBusy r t)
      | .reset slots => requeue acts (hardReset (rest.cutByte slots t))

/-- A host write of CMDW: while BUSY = 1 the word is dropped, otherwise it issues one operation
(spec/10_state R12, spec/30_encoding R68). -/
def issue (w : Word) (meanwhile : List BusyAct) (s : State) : Result :=
  if s.busy then .next (requeue meanwhile (overrun s))
  else match meanwhile with
    | [] => exec (decodeWord w) (accept s)
    | a :: acts => .next (runBusy (a :: acts) (program (decodeWord w) s.par) (accept s))

/-- One transaction on the wire, by the bytes of its format (log entries 6 and 17). -/
def wireTransaction (bytes : List Byte) (s : State) : Result :=
  match decode bytes with
  | .ok i => if isWireFormat i then exec i s else .refused .notAWireFormat
  | .reject _ => .refused .notAWireFormat

/-- One act of the host (spec/70_reset_and_hazards R232). -/
def hostAct (a : HostAct) (s : State) : Result :=
  match a with
  | .read r => .next (answer r s)
  | .write .cmdw w meanwhile => issue w meanwhile s
  | .write .status _ meanwhile | .write .rdata _ meanwhile | .write .rxinfo _ meanwhile =>
    .next (requeue meanwhile s)
  | .reset => .next (hardReset s)
  | .wire bytes => wireTransaction bytes s

/-- The act that presents a unit of bytes: four bytes are a command word, written to CMDW; any other number is put on
the wire. -/
def presentUnit (bytes : List Byte) : HostAct :=
  match bytes with
  | [b0, b1, b2, b3] => .write .cmdw (wordOfBytes b0 b1 b2 b3) []
  | bs => .wire bs

/-- The state in which the next thing that happens is the given unit: BUSY = 0 and the act first in the queue. -/
def present (bytes : List Byte) (s : State) : State :=
  { s with busy := false, host := presentUnit bytes :: s.host }

/-- SPI-LINK's next step: the host's next act; with none left SPI-LINK stays as it is, since it starts nothing by
itself (spec/42_protocol_engine R158, spec/70_reset_and_hazards R231). -/
def nextAct (s : State) : Result :=
  match s.host with
  | [] => .next s
  | a :: rest => hostAct a { s with host := rest }

/-- The start of a run: reset, then a list of command words, each issued at BUSY = 0 (spec/70_reset_and_hazards R231). -/
def startRun (p : Config.Params) (words : List Word) (device : List Byte) : State :=
  { State.reset with par := p, sck := p.cpol, host := words.map (fun w => .write .cmdw w []), dev := device }

end Sys2Proof.Machine
end

