-- ==== Sys2Proof/Machine/Step.lean ====
section
/-! DEFINITION. One step of the machine, and how an instruction of the opcode table is placed where the step takes
it. -/

namespace Sys2Proof.Machine

/-- One step: the next act of the host, an operation it issues being run to its end. -/
def step (s : State) : Host.Outcome State Fault Refusal := nextAct s

/-- `s` with the instruction of the opcode table whose bits are `w` presented next (log entry 1). -/
def State.withFetchWord (s : State) (nbits w : Nat) : State := present (tableBytes nbits w) s

end Sys2Proof.Machine
end

