-- ==== Sys2Proof/Machine/Pseudo.lean ====
section
/-! DEFINITION. The spec's pseudo-instructions (spec/30_encoding R75): sequences of operations, no hardware. -/

namespace Sys2Proof.Machine

/-- Operations one after the other, each run to its end. -/
def execAll : List Instr → State → Result
  | [], s => .next s
  | i :: is, s =>
    match exec i s with
    | .next t => execAll is t
    | .fault r => .fault r
    | .refused r => .refused r

/-- Operations one after the other, stopping after the first that does not finish OK. -/
def execWhileOk : List Instr → State → Result
  | [], s => .next s
  | i :: is, s =>
    match exec i s with
    | .next t => if t.result = .ok then execWhileOk is t else .next t
    | .fault r => .fault r
    | .refused r => .refused r

/-- `STB i, P[0]; STB i+1, P[1]; ...`. -/
def stagePayload : Nat → List Byte → List Instr
  | _, [] => []
  | i, b :: bs => .stb (BitVec.ofNat 8 i) b :: stagePayload (i + 1) bs

/-- `LOAD P` (R75). -/
def loadPayload (payload : List Byte) : List Instr := stagePayload 0 payload

/-- `XCHG len, T, n`: CMD, then, only if it finished OK, RDF (R75, R155). -/
def exchange (len : Byte) (t : BitVec 16) (n : Byte) : List Instr := [.cmd len t, .rdf n]

/-- `CMD len, T` seen as a sequence (R75). -/
def commandSequence (len : Byte) (t : BitVec 16) : List Instr := [.txc len, .wrdy t, .rack, .wrdy t]

end Sys2Proof.Machine
end

