-- ==== Sys2Proof/Safety.lean ====
section
/-! DEFINITION. The terms claims about SPI-LINK are stated in: the transactions of spec/30_encoding R67 as trace
events, what a stretch of trace means for the pins and for the device, what an operation leaves as it was, the
invariant every step keeps, and the host's duties (spec/70_reset_and_hazards R223, R224, R228). -/

namespace Sys2Proof.Machine

/-! ### Transactions (spec/30_encoding R67) -/

/-- A frame write: `SEL`, the prefix, the frame's bytes, `DSL`. -/
def frameWrite (p : Config.Params) (bytes : List Byte) : List Event :=
  [.sel] ++ (p.txPrefix ++ bytes).map .w ++ [.dsl]

/-- A status poll that read `v`. -/
def pollExchange (q v : Byte) : List Event := [.sel, .w q, .r v, .dsl]

/-- An ACK read or a frame read: `SEL`, the prefix, the bytes read, `DSL`. -/
def bytesRead (p : Config.Params) (bytes : List Byte) : List Event :=
  [.sel] ++ p.rxPrefix.map .w ++ bytes.map .r ++ [.dsl]

/-- The polls of one wait with a delay between two of them (spec/42_protocol_engine R144). -/
def waitPolls (q : Byte) : List Byte → List Event
  | [] => []
  | [v] => pollExchange q v
  | v :: w :: vs => pollExchange q v ++ [.d Config.pollInterval] ++ waitPolls q (w :: vs)

/-- The answers of a wait that ends Ready: the last is 0x01 and no earlier one, and the polls fit the budget. -/
def ReadyAnswers (T : Nat) (vs : List Byte) : Prop :=
  ∃ early, vs = early ++ [0x01] ∧ (∀ v ∈ early, v ≠ 0x01) ∧ vs.length ≤ T / 10 + 1

/-- The answers of a wait that ends Timeout: as many as the budget has polls, none of them 0x01. -/
def TimeoutAnswers (T : Nat) (vs : List Byte) : Prop :=
  (∀ v ∈ vs, v ≠ 0x01) ∧ vs.length = T / 10 + 1

/-! ### What trace events mean at the pins and to the device -/

/-- The pin events of one bit slot of a write (spec/40_bus_transport R91). -/
def writeSlotWave (p : Config.Params) (bit : Bool) : List PinEvent :=
  if p.cpha then [.sck !p.cpol, .mosi bit, .sck p.cpol] else [.mosi bit, .sck !p.cpol, .sck p.cpol]

/-- The pin events of one bit slot of a read (spec/40_bus_transport R91). -/
def readSlotWave (p : Config.Params) (bit : Bool) : List PinEvent :=
  if p.cpha then [.sck !p.cpol, .sck p.cpol, .sample bit] else [.sck !p.cpol, .sample bit, .sck p.cpol]

/-- The pin events of one trace event (spec/40_bus_transport R92 to R95; a delay moves no pin, R146). -/
def eventWave (p : Config.Params) : Event → List PinEvent
  | .sel => [.ss false]
  | .dsl => [.ss true]
  | .w b => (wireBits b).flatMap (writeSlotWave p)
  | .r v => (wireBits v).flatMap (readSlotWave p)
  | .d _ => []

/-- The level of SS after some trace events. -/
def ssAfter (level : Bool) (es : List Event) : Bool :=
  es.foldl (fun l e => match e with | .sel => false | .dsl => true | .w _ | .r _ | .d _ => l) level

/-- The level of MOSI after some trace events: the last bit of the last byte written (spec/40_bus_transport R94, R95). -/
def mosiAfter (level : Bool) (es : List Event) : Bool :=
  es.foldl (fun l e => match e with | .w b => b.getLsbD 7 | .sel | .dsl | .r _ | .d _ => l) level

/-- The level of SCK after some trace events: at rest after any byte (spec/40_bus_transport R91). -/
def sckAfter (p : Config.Params) (level : Bool) (es : List Event) : Bool :=
  es.foldl (fun l e => match e with | .w _ | .r _ => p.cpol | .sel | .dsl | .d _ => l) level

/-- The bytes read in some trace events, in order. -/
def readsOf : List Event → List Byte
  | [] => []
  | .r v :: es => v :: readsOf es
  | .sel :: es | .dsl :: es | .w _ :: es | .d _ :: es => readsOf es

/-- Every byte read in `es` is the one the device drove: the next of its script, or, past its end, its free answer to
the trace so far (spec/10_state R31). -/
def DeviceDrove : List Byte → List Event → List Event → Prop
  | _, _, [] => True
  | dev, past, .r v :: es => v = dev.headD (Config.device past) ∧ DeviceDrove dev.tail (past ++ [.r v]) es
  | dev, past, .sel :: es => DeviceDrove dev (past ++ [.sel]) es
  | dev, past, .dsl :: es => DeviceDrove dev (past ++ [.dsl]) es
  | dev, past, .w b :: es => DeviceDrove dev (past ++ [.w b]) es
  | dev, past, .d n :: es => DeviceDrove dev (past ++ [.d n]) es

/-- From `s` to `t` exactly the events `es` happened: the trace, the pins and the device's script say so. -/
structure Traffic (s t : State) (es : List Event) : Prop where
  par : t.par = s.par
  trace : t.trace = s.trace ++ es
  ss : t.ss = ssAfter s.ss es
  mosi : t.mosi = mosiAfter s.mosi es
  sck : t.sck = sckAfter s.par s.sck es
  wave : t.wave = s.wave ++ es.flatMap (eventWave s.par)
  script : t.dev = s.dev.drop (readsOf es).length
  drove : DeviceDrove s.dev s.trace es

/-! ### What an operation leaves as it was -/

/-- What no operation touches: OVR (R18), the host's coming acts, the record of its reads. -/
structure HostSideKept (s t : State) : Prop where
  ovr : t.ovr = s.ovr
  host : t.host = s.host
  answers : t.answers = s.answers

/-- RXINFO as it was (R21). -/
structure RxinfoKept (s t : State) : Prop where
  dir : t.rxDir = s.rxDir
  len : t.rxLen = s.rxLen
  valid : t.rxValid = s.rxValid

/-- Every byte of BUF as it was: written or not, and with which value. -/
def BufKept (s t : State) : Prop := ∀ i, t.buf.get? i = s.buf.get? i

/-- Every byte of BUF outside `0 .. n-1` as it was. -/
def BufKeptFrom (n : Nat) (s t : State) : Prop := ∀ i, n ≤ i → t.buf.get? i = s.buf.get? i

/-- The operation finished with a code: RESULT, BUSY, and the use count of the free values (R7). -/
structure Finished (c : Code) (s t : State) : Prop where
  result : t.result = c
  busy : t.busy = false
  draw : t.draw = s.draw + 1

/-- An operation that moved the events `es` and finished with a code, and changed nothing else: not OVR, ENG, READY,
RDATA, RXINFO or any byte of BUF. -/
structure Moved (c : Code) (s t : State) (es : List Event) : Prop where
  finished : Finished c s t
  traffic : Traffic s t es
  hostSide : HostSideKept s t
  rxinfo : RxinfoKept s t
  buf : BufKept s t
  eng : t.eng = s.eng
  ready : t.ready = s.ready
  rdata : t.rdata = s.rdata

/-- An operation that was turned away: no pin event, nothing changed but RESULT and BUSY
(spec/60_exceptions R181, BadArg and BadOp). -/
def TurnedAway (c : Code) (s t : State) : Prop := Moved c s t []

/-! ### The host beside a running operation (log entry 10) -/

/-- Whether an act is a command word, which sets OVR while BUSY = 1 (R18). -/
def BusyAct.isCommand (a : BusyAct) : Bool :=
  match a.touch with
  | .write .cmdw _ => true
  | .write .status _ | .write .rdata _ | .write .rxinfo _ | .read _ | .reset _ => false

/-- The register an act reads, if it is a read. -/
def BusyAct.registerRead (a : BusyAct) : Option Reg :=
  match a.touch with
  | .read r => some r
  | .write _ _ | .reset _ => none

/-- How many wire events the operation makes before the last of these acts lands. -/
def eventsBefore (acts : List BusyAct) : Nat := (acts.map (·.after)).sum

/-! ### The parameters no operation depends on (spec/00_scope R6) -/

/-- The same state on a platform with another TICK and another placement of the host's registers. -/
def onPlatform (tick hostBase hostStride : Nat) (s : State) : State :=
  { s with par := { s.par with tick := tick, hostBase := hostBase, hostStride := hostStride } }

/-- The time that the delays of some trace events take: so many TICK (spec/42_protocol_engine R146; log entry 13). -/
def delayTime (p : Config.Params) : List Event → Nat
  | [] => 0
  | .d n :: es => n * p.tick + delayTime p es
  | .sel :: es | .dsl :: es | .w _ :: es | .r _ :: es => delayTime p es

/-! ### The invariant -/

/-- What holds of SPI-LINK between two steps: BUF is in canonical form and inside BUF_CAP, no operation runs, SCK is
at rest. -/
structure Inv (s : State) : Prop where
  bufWf : s.buf.wf = true
  bufWithin : s.buf.within s.par.bufCap = true
  idle : s.busy = false
  sckAtRest : s.sck = s.par.cpol

/-- The host's queue holds only acts of R232, no bare wire transaction (log entry 6). -/
def OnlyHostActs (s : State) : Prop := ∀ bytes, HostAct.wire bytes ∉ s.host

/-! ### The host's duties (spec/70_reset_and_hazards) -/

/-- R228: the first `n` bytes of BUF have been written since reset. -/
def dutyWritten (s : State) (n : Nat) : Bool := (List.range n).all fun i => (s.buf.get? i).isSome

/-- R223: the response is read only after a request that completed. -/
def dutyCompleted (s : State) : Bool := s.eng == .complete

/-- R224: the payload is trusted only after a decode that succeeded, its direction being the device's. -/
def dutyDecoded (s : State) : Bool := s.rxValid && s.rxDir == dirDeviceToHost

end Sys2Proof.Machine
end

