-- ==== Sys2Proof/Certificates/Slice0/Obligations.lean ====
section
/-! DEFINITION. The statements for the provers, from the numbered rules of spec/. Each docstring names the rule it
formalises. Statements rest on no value of a free constant (log entries 2, 3, 4): they hold for every one. -/

open Sys2Proof Sys2Proof.Machine

/-! ### Encodings -/

/-- R62, R63, R64, R68, R70, R71: every well-formed instruction is what the decoder reads from its encoding. -/
def Obligations.DecodeOfEncodeIsTheInstruction : Prop :=
  ∀ i : Instr, i.wf = true → decode (encode i) = .ok i

/-- R70, R69: the low byte alone selects the operation; A and B are the operands, an unused field is ignored. -/
def Obligations.LowByteSelectsTheOperation : Prop :=
  ∀ w : Word,
    let a : Byte := w.extractLsb' 8 8
    let b : BitVec 16 := w.extractLsb' 16 16
    (w &&& 0xFF = 0x1 ↔ decodeWord w = .sel) ∧
    (w &&& 0xFF = 0x2 ↔ decodeWord w = .dsl) ∧
    (w &&& 0xFF = 0x3 ↔ decodeWord w = .wrb a) ∧
    (w &&& 0xFF = 0x4 ↔ decodeWord w = .rdb) ∧
    (w &&& 0xFF = 0x5 ↔ decodeWord w = .stb a (b.extractLsb' 0 8)) ∧
    (w &&& 0xFF = 0x6 ↔ decodeWord w = .ldb a) ∧
    (w &&& 0xFF = 0x7 ↔ decodeWord w = .txc a) ∧
    (w &&& 0xFF = 0x8 ↔ decodeWord w = .dec a) ∧
    (w &&& 0xFF = 0x9 ↔ decodeWord w = .poll) ∧
    (w &&& 0xFF = 0xA ↔ decodeWord w = .wrdy b) ∧
    (w &&& 0xFF = 0xB ↔ decodeWord w = .rack) ∧
    (w &&& 0xFF = 0xC ↔ decodeWord w = .rdf a) ∧
    (w &&& 0xFF = 0xD ↔ decodeWord w = .cmd a b)

/-- R70, R74, and the vectors of spec/95_test_vectors 2.1: some words of the spec and what they stand for. -/
def Obligations.WordsOfTheSpecDecode : Prop :=
  decodeWord 0x00000001 = .sel ∧ decodeWord 0x0000D403 = .wrb 0xD4 ∧ decodeWord 0x00A40305 = .stb 3 0xA4 ∧
  decodeWord 0x00000606 = .ldb 6 ∧ decodeWord 0x00003E07 = .txc 62 ∧ decodeWord 0x00000D08 = .dec 13 ∧
  decodeWord 0x7530000A = .wrdy 30000 ∧ decodeWord 0x03E8010D = .cmd 1 1000 ∧ decodeWord 0xFFFFFF01 = .sel

/-- R71: a word with a reserved OP or a non-zero w[7:4] does nothing and finishes BadOp; no other word does. -/
def Obligations.ReservedWordsFinishBadOp : Prop :=
  ∀ s : State,
    (∀ rest, ∃ t, exec (.reservedOp0 rest) s = .next t ∧ TurnedAway .badOp s t) ∧
    (∀ rest, ∃ t, exec (.reservedOpE rest) s = .next t ∧ TurnedAway .badOp s t) ∧
    (∀ rest, ∃ t, exec (.reservedOpF rest) s = .next t ∧ TurnedAway .badOp s t) ∧
    (∀ op r ab, ∃ t, exec (.reservedHighNibble op r ab) s = .next t ∧ TurnedAway .badOp s t) ∧
    (∀ w : Word, ∃ t, exec (decodeWord w) s = .next t ∧
      if w &&& 0xF = 0x0 ∨ w &&& 0xF = 0xE ∨ w &&& 0xF = 0xF ∨ w &&& 0xF0 ≠ 0
      then TurnedAway .badOp s t else t.result ≠ .badOp)

/-! ### Bus transport -/

/-- R96, R97, R92, R93: SEL and DSL drive SS, whatever its level was, trace one event and change nothing else. -/
def Obligations.SelectAndDeselect : Prop :=
  ∀ s : State,
    (∃ t, exec .sel s = .next t ∧ Moved .ok s t [.sel] ∧ t.ss = false ∧ t.sck = s.sck ∧ t.mosi = s.mosi) ∧
    (∃ t, exec .dsl s = .next t ∧ Moved .ok s t [.dsl] ∧ t.ss = true ∧ t.sck = s.sck ∧ t.mosi = s.mosi)

/-- R98, R94: WRB clocks its byte out, bit 0 first, whatever SS is; with CPOL = CPHA = 0 each slot is MOSI, SCK up,
SCK down; MOSI keeps bit 7; nothing else changes. -/
def Obligations.WriteByteClocksBitZeroFirst : Prop :=
  ∀ (s : State) (v : Byte), ∃ t, exec (.wrb v) s = .next t ∧ Moved .ok s t [.w v] ∧ t.mosi = v.getLsbD 7 ∧
    t.ss = s.ss ∧
    (s.par.cpol = false → s.par.cpha = false →
      t.wave = s.wave ++ (List.range 8).flatMap fun k => [.mosi (v.getLsbD k), .sck true, .sck false])

/-- R99, R95, R31: RDB reads the byte the device drives into RDATA, bit 0 first, whatever SS is; MOSI is not changed. -/
def Obligations.ReadByteSamplesBitZeroFirst : Prop :=
  ∀ s : State, ∃ t v, exec .rdb s = .next t ∧ v = s.dev.headD (Config.device s.trace) ∧ t.rdata = v ∧
    Finished .ok s t ∧ Traffic s t [.r v] ∧ HostSideKept s t ∧ RxinfoKept s t ∧ BufKept s t ∧
    t.eng = s.eng ∧ t.ready = s.ready ∧ t.ss = s.ss ∧ t.mosi = s.mosi ∧ t.dev = s.dev.tail ∧
    (s.par.cpol = false → s.par.cpha = false →
      t.wave = s.wave ++ (List.range 8).flatMap fun k => [.sck true, .sample (v.getLsbD k), .sck false])

/-- R91: with the other polarity and phase a byte's slots have the edges and the sampling the rule gives them. -/
def Obligations.SlotShapeFollowsPolarityAndPhase : Prop :=
  ∀ (s : State) (v : Byte),
    (∃ t, exec (.wrb v) s = .next t ∧ t.sck = s.par.cpol ∧
      t.wave = s.wave ++ (List.range 8).flatMap fun k =>
        if s.par.cpha then [.sck !s.par.cpol, .mosi (v.getLsbD k), .sck s.par.cpol]
        else [.mosi (v.getLsbD k), .sck !s.par.cpol, .sck s.par.cpol]) ∧
    (∃ t, exec .rdb s = .next t ∧ t.sck = s.par.cpol ∧
      t.wave = s.wave ++ (List.range 8).flatMap fun k =>
        if s.par.cpha then [.sck !s.par.cpol, .sck s.par.cpol, .sample (t.rdata.getLsbD k)]
        else [.sck !s.par.cpol, .sample (t.rdata.getLsbD k), .sck s.par.cpol])

/-- R92 to R95, R31: whatever operation runs, its pins, its pin record and the bytes it reads are those of the trace
events it makes. The pin record is the model's (log entry 5), and so is the device's script (log entry 2). -/
def Obligations.PinsAndDeviceFollowTheTrace : Prop :=
  ∀ (i : Instr) (s t : State), isWireFormat i = false → exec i s = .next t → ∃ es, Traffic s t es

/-! ### Scratch buffer -/

/-- R170: STB writes the one byte it names, or is turned away when the index is not below BUF_CAP. -/
def Obligations.StoreByteWritesOneByte : Prop :=
  ∀ (s : State) (i v : Byte), ∃ t, exec (.stb i v) s = .next t ∧
    if i.toNat < s.par.bufCap then
      Finished .ok s t ∧ Traffic s t [] ∧ HostSideKept s t ∧ RxinfoKept s t ∧
      t.eng = s.eng ∧ t.ready = s.ready ∧ t.rdata = s.rdata ∧
      t.buf.get? i.toNat = some v ∧ ∀ j, j ≠ i.toNat → t.buf.get? j = s.buf.get? j
    else TurnedAway .badArg s t

/-- R171, R22: LDB reads the byte that was written last, or, where nothing has been written since reset, the free
value; it is turned away when the index is not below BUF_CAP. -/
def Obligations.LoadByteReadsTheBuffer : Prop :=
  ∀ (s : State) (i : Byte), ∃ t, exec (.ldb i) s = .next t ∧
    if i.toNat < s.par.bufCap then
      Finished .ok s t ∧ Traffic s t [] ∧ HostSideKept s t ∧ RxinfoKept s t ∧ BufKept s t ∧
      t.eng = s.eng ∧ t.ready = s.ready ∧
      (∀ v, s.buf.get? i.toNat = some v → t.rdata = v) ∧
      (s.buf.get? i.toNat = none → t.rdata = Config.unwritten s.draw i.toNat)
    else TurnedAway .badArg s t

/-- R48 (d), R41, R153, R154, R170, R171: a byte stored is the byte loaded, after anything in between that does not
write it: no STB to it, no frame read that reaches it (an RDF turned away, or one of bytes below it, is allowed; so is
a wire-format row of the same kind, log entries 6, 8). -/
def Obligations.StoredByteIsLoadedLater : Prop :=
  ∀ (s t u : State) (i v : Byte) (between : List Instr), i.toNat < s.par.bufCap →
    (∀ j ∈ between, (∀ x, j ≠ .stb i x) ∧ (∀ n, j = .rdf n → n.toNat ≤ i.toNat ∨ s.par.bufCap < n.toNat) ∧
      (∀ payload, j = .frame .deviceToHost payload → (frame 0xD5 payload).length ≤ i.toNat)) →
    exec (.stb i v) s = .next t → execAll between t = .next u →
    ∃ r, exec (.ldb i) u = .next r ∧ r.rdata = v ∧ r.result = .ok

/-- R75 (LOAD), R170: staging a payload that fits puts its bytes at BUF[0 ..], in order, and nothing elsewhere; each
STB finishes OK, and nothing else changes. -/
def Obligations.LoadStagesThePayload : Prop :=
  ∀ (s : State) (payload : List Byte), payload.length ≤ s.par.bufCap →
    ∃ t, execAll (loadPayload payload) s = .next t ∧
      (∀ k, k < payload.length → t.buf.get? k = payload[k]?) ∧
      BufKeptFrom payload.length s t ∧ Traffic s t [] ∧ t.eng = s.eng ∧ t.ready = s.ready ∧ t.rdata = s.rdata ∧
      RxinfoKept s t ∧ HostSideKept s t ∧ t.draw = s.draw + payload.length ∧
      if payload = [] then t = s else t.result = .ok ∧ t.busy = false

/-! ### Frame codec -/

/-- R113, R114, R115, R65: the laws of the two checksums. -/
def Obligations.ChecksumLaws : Prop :=
  (∀ v : Byte, v + neg8 v = 0 ∧ neg8 (neg8 v) = v ∧ neg8 v = ~~~v + 1) ∧
  (∀ v : Byte, v ≠ 0 → (neg8 v).toNat = 256 - v.toNat) ∧ neg8 0 = 0 ∧
  (∀ (d : Byte) (payload : List Byte), d + sum8 payload + neg8 (d + sum8 payload) = 0) ∧
  (∀ p q : List Byte, p.Perm q → sum8 p = sum8 q) ∧
  (∀ p q : List Byte, sum8 (p ++ q) = sum8 p + sum8 q)

/-- R62, R111: a frame byte by byte. -/
def Obligations.FrameLayoutByIndex : Prop :=
  ∀ (d : Byte) (payload : List Byte), payload.length ≤ 254 →
    (frame d payload).length = payload.length + 8 ∧
    (frame d payload)[0]? = some 0x00 ∧ (frame d payload)[1]? = some 0x00 ∧ (frame d payload)[2]? = some 0xFF ∧
    (∃ l : Byte, (frame d payload)[3]? = some l ∧ l.toNat = payload.length + 1 ∧
      (frame d payload)[4]? = some (0 - l)) ∧
    (frame d payload)[5]? = some d ∧
    (∀ k, k < payload.length → (frame d payload)[6 + k]? = payload[k]?) ∧
    (frame d payload)[6 + payload.length]? = some (0 - (d + payload.sum)) ∧
    (frame d payload)[7 + payload.length]? = some 0x00

/-- R117, R116: TXC sends exactly the frame of the staged bytes in one transaction, or is turned away. -/
def Obligations.TransmitSendsTheFrame : Prop :=
  ∀ (s : State) (len : Byte), ∃ t, exec (.txc len) s = .next t ∧
    if len.toNat ≤ 62 then Moved .ok s t (frameWrite s.par (frame 0xD4 (bufBytes s 0 len.toNat)))
    else TurnedAway .badArg s t

/-- R121, R44: DEC puts the decode of BUF[0 .. n-1] in RXINFO and RESULT and changes nothing else, or is turned away
with RXINFO unchanged (R121, R181 beside R21: log entry 22). -/
def Obligations.DecodeOperationReports : Prop :=
  ∀ (s : State) (n : Byte), ∃ t, exec (.dec n) s = .next t ∧
    if 1 ≤ n.toNat ∧ n.toNat ≤ s.par.bufCap then
      Finished (decodeFrame (bufBytes s 0 n.toNat)).code s t ∧ Traffic s t [] ∧ HostSideKept s t ∧ BufKept s t ∧
      t.eng = s.eng ∧ t.ready = s.ready ∧ t.rdata = s.rdata ∧
      match decodeFrame (bufBytes s 0 n.toNat) with
      | .ok d payload => t.rxDir = d ∧ t.rxLen.toNat = payload.length ∧ t.rxValid = true
      | .error _ => rxinfoWord t = 0
    else TurnedAway .badArg s t

/-- R120, R111: the decoder accepts exactly the frames, with the postamble cut off or not and anything after. -/
def Obligations.DecoderAcceptsExactlyFrames : Prop :=
  ∀ (raw : List Byte) (d : Byte) (payload : List Byte),
    decodeFrame raw = .ok d payload ↔
      payload.length ≤ 254 ∧ ∃ rest, raw = (frame d payload).take (payload.length + 7) ++ rest

/-- R120 steps 1 to 6: the errors found before the payload, each from the bytes its step names and from no other. -/
def Obligations.DecoderErrorsInOrder : Prop :=
  ∀ (a b c l k : Byte) (rest : List Byte),
    (∀ short : List Byte, short.length < 3 → decodeFrame short = .error .shortFrame) ∧
    ([a, b, c] ≠ [0x00, 0x00, 0xFF] → decodeFrame (a :: b :: c :: rest) = .error .preambleMismatch) ∧
    (decodeFrame [0x00, 0x00, 0xFF] = .error .shortFrame ∧ decodeFrame [0x00, 0x00, 0xFF, l] = .error .shortFrame) ∧
    (l + k ≠ 0 → decodeFrame (0x00 :: 0x00 :: 0xFF :: l :: k :: rest) = .error .lengthChecksumMismatch) ∧
    (decodeFrame (0x00 :: 0x00 :: 0xFF :: 0x00 :: 0x00 :: rest) = .error .shortFrame) ∧
    (l + k = 0 → rest.length < l.toNat + 1 →
      decodeFrame (0x00 :: 0x00 :: 0xFF :: l :: k :: rest) = .error .shortFrame) ∧
    (l + k = 0 → l ≠ 0 → l.toNat + 1 ≤ rest.length → sum8 (rest.take (l.toNat + 1)) ≠ 0 →
      decodeFrame (0x00 :: 0x00 :: 0xFF :: l :: k :: rest) = .error .payloadChecksumMismatch)

/-- R118: the round trip, with the postamble, without it, with trailing bytes; one byte less is short. -/
def Obligations.FrameRoundTrip : Prop :=
  ∀ (d : Byte) (payload trailing : List Byte), payload.length ≤ 254 →
    decodeFrame (frame d payload ++ trailing) = .ok d payload ∧
    decodeFrame ((frame d payload).take (payload.length + 7)) = .ok d payload ∧
    decodeFrame ((frame d payload).take (payload.length + 6)) = .error .shortFrame

/-- R123: what one damaged byte of a frame gives, and that two damaged bytes can go unseen. -/
def Obligations.SingleByteDamageIsSeen : Prop :=
  (∀ (d : Byte) (payload : List Byte) (k : Nat) (old new : Byte), payload.length ≤ 254 →
    (frame d payload)[k]? = some old → new ≠ old →
    decodeFrame ((frame d payload).set k new) =
      if k < 3 then .error .preambleMismatch
      else if k < 5 then .error .lengthChecksumMismatch
      else if k < payload.length + 7 then .error .payloadChecksumMismatch
      else .ok d payload) ∧
  ∃ (d : Byte) (p q : List Byte), p ≠ q ∧ p.length = q.length ∧
    decodeFrame (((frame d p).take 6) ++ q ++ (frame d p).drop (6 + p.length)) = .ok d q

/-- R124, R63: the acknowledgement is not a frame for the decoder. -/
def Obligations.AcknowledgementIsNoFrame : Prop :=
  decodeFrame ackBytes = .error .lengthChecksumMismatch ∧
  ∀ d payload, payload.length ≤ 254 → frame d payload ≠ ackBytes

/-! ### Protocol engine -/

/-- R142, R141, R143: POLL is one status exchange; READY is exactly "the byte was 0x01". -/
def Obligations.PollReadsTheStatusByte : Prop :=
  ∀ s : State, ∃ t v, exec .poll s = .next t ∧ Traffic s t (pollExchange s.par.statusReq v) ∧ t.rdata = v ∧
    (t.ready = true ↔ v = 0x01) ∧ Finished .ok s t ∧ HostSideKept s t ∧ RxinfoKept s t ∧ BufKept s t ∧
    t.eng = s.eng ∧ t.ss = true

/-- R144, R145: WRDY polls until 0x01 or until the budget is used, and says which; a zero timeout is turned away. -/
def Obligations.WaitPollsWithinTheBudget : Prop :=
  ∀ (s : State) (T : BitVec 16), ∃ t, exec (.wrdy T) s = .next t ∧
    if T = 0 then TurnedAway .badArg s t
    else ∃ vs, Traffic s t (waitPolls s.par.statusReq vs) ∧ HostSideKept s t ∧ RxinfoKept s t ∧ BufKept s t ∧
      t.eng = s.eng ∧ t.rdata = s.rdata ∧
      ((ReadyAnswers T.toNat vs ∧ Finished .ok s t ∧ t.ready = true) ∨
        (TimeoutAnswers T.toNat vs ∧ Finished .timeout s t ∧ t.ready = false))

/-- R149, R148: RACK reads six bytes whatever they are, compares all six, keeps none. -/
def Obligations.AckReadComparesSixBytes : Prop :=
  ∀ s : State, ∃ t a, exec .rack s = .next t ∧ a.length = 6 ∧
    Moved (if a = [0x00, 0x00, 0xFF, 0x00, 0xFF, 0x00] then .ok else .ackMismatch) s t (bytesRead s.par a)

/-- R153, R154: RDF reads exactly n bytes into BUF[0 .. n-1] and reports their decode, or is turned away with RXINFO
unchanged (R154, R181 beside R21: log entry 22). -/
def Obligations.ReadFrameFillsTheBuffer : Prop :=
  ∀ (s : State) (n : Byte), ∃ t, exec (.rdf n) s = .next t ∧
    if 1 ≤ n.toNat ∧ n.toNat ≤ s.par.bufCap then
      ∃ raw, raw.length = n.toNat ∧ Traffic s t (bytesRead s.par raw) ∧ Finished (decodeFrame raw).code s t ∧
        (∀ k, k < n.toNat → t.buf.get? k = raw[k]?) ∧ BufKeptFrom n.toNat s t ∧
        HostSideKept s t ∧ t.eng = s.eng ∧ t.ready = s.ready ∧ t.rdata = s.rdata ∧
        match decodeFrame raw with
        | .ok d payload => t.rxDir = d ∧ t.rxLen.toNat = payload.length ∧ t.rxValid = true
        | .error _ => rxinfoWord t = 0
    else TurnedAway .badArg s t

/-- R154: `RDF n` has exactly the effect of `RawRead(n)` followed by `DEC n`. -/
def Obligations.ReadFrameIsRawReadThenDecode : Prop :=
  ∀ (s : State) (n : Byte), 1 ≤ n.toNat → n.toNat ≤ s.par.bufCap →
    exec (.rdf n) s = exec (.dec n) ((rawRead s.par n.toNat .done).run s)

/-- R150, R151: every way a request in range can go: what it puts on the wire, ENG, READY and RESULT at its end, and
what it leaves alone. -/
def Obligations.RequestOutcomes : Prop :=
  ∀ (s : State) (len : Byte) (T : BitVec 16), len.toNat ≤ 62 → T ≠ 0 →
    ∃ t vs a ws es, exec (.cmd len T) s = .next t ∧ Traffic s t es ∧
      HostSideKept s t ∧ RxinfoKept s t ∧ BufKept s t ∧ t.rdata = s.rdata ∧ t.ss = true ∧
      let sent := frameWrite s.par (frame 0xD4 (bufBytes s 0 len.toNat))
      let wait1 := waitPolls s.par.statusReq vs
      let wait2 := waitPolls s.par.statusReq ws
      ((TimeoutAnswers T.toNat vs ∧ es = sent ++ wait1 ∧
          Finished .timeout s t ∧ t.eng = .failed ∧ t.ready = false) ∨
        (ReadyAnswers T.toNat vs ∧ a.length = 6 ∧ a ≠ ackBytes ∧ es = sent ++ wait1 ++ bytesRead s.par a ∧
          Finished .ackMismatch s t ∧ t.eng = .failed ∧ t.ready = true) ∨
        (ReadyAnswers T.toNat vs ∧ a = ackBytes ∧ TimeoutAnswers T.toNat ws ∧
          es = sent ++ wait1 ++ bytesRead s.par a ++ wait2 ∧
          Finished .timeout s t ∧ t.eng = .failed ∧ t.ready = false) ∨
        (ReadyAnswers T.toNat vs ∧ a = ackBytes ∧ ReadyAnswers T.toNat ws ∧
          es = sent ++ wait1 ++ bytesRead s.par a ++ wait2 ∧
          Finished .ok s t ∧ t.eng = .complete ∧ t.ready = true))

/-- R150, R142: a device that is ready at once, acknowledges, and is ready again gives the shortest request. -/
def Obligations.PromptDeviceCompletesTheRequest : Prop :=
  ∀ (s : State) (len : Byte) (T : BitVec 16) (later : List Byte), len.toNat ≤ 62 → T ≠ 0 →
    s.dev = [0x01] ++ ackBytes ++ [0x01] ++ later →
    ∃ t, exec (.cmd len T) s = .next t ∧ t.result = .ok ∧ t.eng = .complete ∧ t.ready = true ∧ t.dev = later ∧
      t.trace = s.trace ++ (frameWrite s.par (frame 0xD4 (bufBytes s 0 len.toNat)) ++
        pollExchange s.par.statusReq 0x01 ++ bytesRead s.par ackBytes ++ pollExchange s.par.statusReq 0x01)

/-- R75 (CMD as a sequence): in range, CMD does what TXC, WRDY, RACK, WRDY do, stopped at the first failure, but for
ENG (and the model's own use count); with a zero timeout the sequence sends the frame and CMD does not; with a length
out of range both are turned away. -/
def Obligations.RequestEqualsItsSequence : Prop :=
  ∀ (s : State) (len : Byte) (T : BitVec 16),
    ∃ t u, exec (.cmd len T) s = .next t ∧ execWhileOk (commandSequence len T) s = .next u ∧ u.eng = s.eng ∧
      if 62 < len.toNat then u = t ∧ TurnedAway .badArg s t
      else if T ≠ 0 then u = { t with eng := s.eng, draw := u.draw }
      else TurnedAway .badArg s t ∧
        u.trace = s.trace ++ frameWrite s.par (frame 0xD4 (bufBytes s 0 len.toNat)) ∧ u.result = .badArg

/-- R75 (XCHG), R155, R46, R224: where the pair CMD, RDF ends OK, the request is Complete, BUF holds a frame, RXINFO
describes it, and LDB at index 6 + k loads its payload byte k. -/
def Obligations.ExchangeDeliversTheResponse : Prop :=
  ∀ (s t : State) (len n : Byte) (T : BitVec 16),
    execWhileOk (exchange len T n) s = .next t → t.result = .ok →
    dutyCompleted t = true ∧ t.rxValid = true ∧ dutyDecoded t = (t.rxDir == 0xD5) ∧
    ∃ payload rest, bufBytes t 0 n.toNat = (frame t.rxDir payload).take (payload.length + 7) ++ rest ∧
      t.rxLen.toNat = payload.length ∧
      ∀ k, k < payload.length → ∃ u, exec (.ldb (BitVec.ofNat 8 (6 + k))) t = .next u ∧ u.result = .ok ∧
        payload[k]? = some u.rdata

/-- R228, R22: bytes that have been written are used as they were written; no free value is among them. -/
def Obligations.WrittenBytesAreUsedAsWritten : Prop :=
  ∀ (s : State) (n : Nat), dutyWritten s n = true → ∀ k, k < n → (bufBytes s 0 n)[k]? = s.buf.get? k

/-- R221: nothing in SPI-LINK detects an open bracket: whatever SS was when an operation began, it does the same. -/
def Obligations.OpenBracketIsNotDetected : Prop :=
  ∀ (i : Instr) (s t : State) (level : Bool), isWireFormat i = false → exec i s = .next t →
    ∃ u, exec i { s with ss := level } = .next u ∧ u = { t with ss := u.ss }

/-- R157: every operation and every transaction ends, whatever the device does; a request has no more events than the
rule's bound, and one that was started ends Complete or Failed. -/
def Obligations.EveryOperationEnds : Prop :=
  ∀ (i : Instr) (s : State),
    ∃ t, exec i s = .next t ∧ (isWireFormat i = false → t.busy = false) ∧
      (∀ len T, i = .cmd len T →
        t.trace.length ≤ s.trace.length + (len.toNat + 8 + s.par.txPrefix.length + 2) + 2 * (4 * 6554 + 6553)
          + (6 + s.par.rxPrefix.length + 2) ∧
        (t.result ≠ .badArg → t.eng = .complete ∨ t.eng = .failed))

/-! ### Result codes and who writes what -/

/-- R44, R181 (BadArg), R185 (2): each operand out of range is turned away before any effect; for DEC and RDF that is
RXINFO unchanged too (R121, R154, R181 beside R21: log entry 22). -/
def Obligations.OperandsOutOfRangeAreTurnedAway : Prop :=
  ∀ (s : State) (x v : Byte) (T : BitVec 16),
    (s.par.bufCap ≤ x.toNat → ∃ t, exec (.stb x v) s = .next t ∧ TurnedAway .badArg s t) ∧
    (s.par.bufCap ≤ x.toNat → ∃ t, exec (.ldb x) s = .next t ∧ TurnedAway .badArg s t) ∧
    (62 < x.toNat → ∃ t, exec (.txc x) s = .next t ∧ TurnedAway .badArg s t) ∧
    (x = 0 ∨ s.par.bufCap < x.toNat → ∃ t, exec (.dec x) s = .next t ∧ TurnedAway .badArg s t) ∧
    (x = 0 ∨ s.par.bufCap < x.toNat → ∃ t, exec (.rdf x) s = .next t ∧ TurnedAway .badArg s t) ∧
    (∃ t, exec (.wrdy 0) s = .next t ∧ TurnedAway .badArg s t) ∧
    (62 < x.toNat ∨ T = 0 → ∃ t, exec (.cmd x T) s = .next t ∧ TurnedAway .badArg s t)

/-- R181, R182: which codes each operation can finish with. -/
def Obligations.ResultCodesByOperation : Prop :=
  ∀ (i : Instr) (s t : State), isWireFormat i = false → exec i s = .next t →
    t.result ∈ (match i with
      | .sel | .dsl | .wrb _ | .rdb | .poll => [.ok]
      | .stb _ _ | .ldb _ | .txc _ => [.ok, .badArg]
      | .dec _ | .rdf _ => [.ok, .badArg, .shortFrame, .preambleMismatch, .lengthChecksumMismatch,
          .payloadChecksumMismatch]
      | .wrdy _ => [.ok, .badArg, .timeout]
      | .rack => [.ok, .ackMismatch]
      | .cmd _ _ => [.ok, .badArg, .timeout, .ackMismatch]
      | .reservedOp0 _ | .reservedOpE _ | .reservedOpF _ | .reservedHighNibble _ _ _ => [.badOp]
      | .frame _ _ | .ack | .statusExchange _ _ => [] : List Code)

/-- R14, R16, R20, R21, R41: each register and BUF is written by the operations its rule names and by no other. -/
def Obligations.WritersOfEachRegister : Prop :=
  ∀ (i : Instr) (s t : State), isWireFormat i = false → exec i s = .next t →
    ((∀ len T, i ≠ .cmd len T) → t.eng = s.eng) ∧
    (i ≠ .poll → (∀ T, i ≠ .wrdy T) → (∀ len T, i ≠ .cmd len T) → t.ready = s.ready) ∧
    (i ≠ .rdb → (∀ x, i ≠ .ldb x) → i ≠ .poll → t.rdata = s.rdata) ∧
    ((∀ n, i ≠ .dec n) → (∀ n, i ≠ .rdf n) → RxinfoKept s t) ∧
    ((∀ x v, i ≠ .stb x v) → (∀ n, i ≠ .rdf n) → BufKept s t) ∧
    HostSideKept s t ∧ t.par = s.par

/-- R100, R186: the codec's and the engine's operations leave SS deasserted, on success and on failure; an operation
that is turned away leaves it as it was. -/
def Obligations.BracketsAreClosed : Prop :=
  ∀ (i : Instr) (s t : State),
    ((∃ len, i = .txc len) ∨ i = .poll ∨ (∃ T, i = .wrdy T) ∨ i = .rack ∨ (∃ n, i = .rdf n) ∨
      (∃ len T, i = .cmd len T)) →
    exec i s = .next t → if t.result = .badArg then t.ss = s.ss else t.ss = true

/-! ### The host's registers -/

/-- R12, R13, R14, R19, R20, R21, R181: the four registers as the host reads them, field by field, with the number of
every ENG state and of every result code. -/
def Obligations.RegisterLayout : Prop :=
  ∀ s : State,
    readReg .cmdw s = 0 ∧
    (readReg .status s).getLsbD 0 = s.busy ∧ (readReg .status s).getLsbD 1 = s.ready ∧
    (readReg .status s).getLsbD 2 = s.ss ∧ (readReg .status s).getLsbD 3 = s.ovr ∧
    (readReg .status s).extractLsb' 4 3 = (match s.eng with
      | .idle => 0 | .commandSent => 1 | .awaitingReady1 => 2 | .ackValidated => 3 | .awaitingReady2 => 4
      | .complete => 5 | .failed => 6) ∧
    (readReg .status s).getLsbD 7 = false ∧
    (readReg .status s).extractLsb' 8 4 = (match s.result with
      | .ok => 0 | .timeout => 1 | .ackMismatch => 2 | .preambleMismatch => 3 | .lengthChecksumMismatch => 4
      | .payloadChecksumMismatch => 5 | .shortFrame => 6 | .badArg => 7 | .badOp => 8) ∧
    (readReg .status s).extractLsb' 12 20 = 0 ∧
    (readReg .rdata s).extractLsb' 0 8 = s.rdata ∧ (readReg .rdata s).extractLsb' 8 24 = 0 ∧
    (readReg .rxinfo s).extractLsb' 0 8 = s.rxDir ∧ (readReg .rxinfo s).extractLsb' 8 8 = s.rxLen ∧
    (readReg .rxinfo s).getLsbD 16 = s.rxValid ∧ (readReg .rxinfo s).extractLsb' 17 15 = 0

/-- R24, R12, R13, R20, R21: a host read changes nothing but the record of its answer; a host write of registers 1
to 3 changes nothing. -/
def Obligations.HostReadsAndOtherWritesDoNothing : Prop :=
  ∀ (s : State) (r : Reg) (w : Word) (later : List HostAct),
    (s.host = .read r :: later →
      step s = .next { s with host := later, answers := s.answers ++ [(r, readReg r s)] }) ∧
    (r ≠ .cmdw → s.host = .write r w [] :: later → step s = .next { s with host := later })

/-- R12, R18, R220: a command word written while BUSY = 1 sets OVR and changes nothing else. -/
def Obligations.CommandWordWhileBusyIsDropped : Prop :=
  ∀ (s : State) (w : Word) (later : List HostAct), s.busy = true → s.host = .write .cmdw w [] :: later →
    step s = .next { s with host := later, ovr := true }

/-- R18: only reset clears OVR: a step from OVR = 1 whose act is not a reset, and has none in it, leaves OVR = 1. -/
def Obligations.OverrunIsSticky : Prop :=
  ∀ (s t : State), s.ovr = true → step s = .next t →
    (∀ later, s.host ≠ .reset :: later) →
    (∀ w acts later, s.host = .write .cmdw w acts :: later → ∀ a ∈ acts, ∀ j, a.touch ≠ .reset j) →
    t.ovr = true

/-! ### Reset -/

/-- R32, R210: the reset state; BUF is unwritten; nothing is on the trace. -/
def Obligations.ResetState : Prop :=
  statusWord State.reset = 0x00000004 ∧ State.reset.ss = true ∧ State.reset.sck = false ∧
  State.reset.mosi = false ∧ State.reset.busy = false ∧ State.reset.ready = false ∧ State.reset.ovr = false ∧
  State.reset.eng = .idle ∧ State.reset.result = .ok ∧ rdataWord State.reset = 0 ∧ rxinfoWord State.reset = 0 ∧
  State.reset.trace = [] ∧ ∀ i, State.reset.buf.get? i = none

/-- R210, R32, R33: the host's reset brings the reset values back in any state, leaves the trace and the parameters
alone and makes every byte of BUF unwritten. -/
def Obligations.ResetActRestoresTheResetValues : Prop :=
  ∀ (s : State) (later : List HostAct), s.host = .reset :: later →
    ∃ t, step s = .next t ∧ t.ss = true ∧ t.sck = s.par.cpol ∧ t.mosi = false ∧ statusWord t = 0x00000004 ∧
      rdataWord t = 0 ∧ rxinfoWord t = 0 ∧ (∀ i, t.buf.get? i = none) ∧ t.trace = s.trace ∧ t.par = s.par ∧
      t.dev = s.dev ∧ t.host = later ∧ t.answers = s.answers

/-- R211: a reset after `k` events of an operation leaves the reset state, with those `k` events on the trace and no
others. -/
def Obligations.ResetCutsTheOperation : Prop :=
  ∀ (s u : State) (w : Word) (k slots : Nat) (es : List Event) (later : List HostAct), s.busy = false →
    s.host = .write .cmdw w [⟨k, .reset slots⟩] :: later →
    exec (decodeWord w) s = .next u → u.trace = s.trace ++ es → k ≤ es.length →
    ∃ t, step s = .next t ∧ t.trace = s.trace ++ es.take k ∧ t.ss = true ∧ t.sck = s.par.cpol ∧ t.mosi = false ∧
      statusWord t = 0x00000004 ∧ rdataWord t = 0 ∧ rxinfoWord t = 0 ∧ (∀ i, t.buf.get? i = none) ∧
      t.par = s.par ∧ t.host = later ∧ t.dev = s.dev.drop (readsOf (es.take k)).length

/-! ### Steps -/

/-- R68, R12, R231: a step runs the instruction that the decoder reads. An issued command word is accepted (BUSY) and
run; what `withFetchWord` presents is run as the decoder reads it; the host's act is used up and nothing else is
added. -/
def Obligations.StepRunsTheDecodedInstruction : Prop :=
  (∀ (s : State) (w : Word) (later : List HostAct), s.busy = false → s.host = .write .cmdw w [] :: later →
    step s = exec (decodeWord w) { s with host := later, busy := true }) ∧
  (∀ (s : State) (bytes : List Byte) (i : Instr) (later : List HostAct), s.host = .wire bytes :: later →
    decode bytes = .ok i → bytes.length ≠ 4 → step s = exec i { s with host := later }) ∧
  (∀ (s : State) (nbits w : Nat) (i : Instr), decodeTableWord nbits w = some i →
    step (s.withFetchWord nbits w) = exec i { s with busy := !isWireFormat i })

/-- R158, R231: with no act of the host left SPI-LINK stays as it is; it starts nothing by itself. -/
def Obligations.NothingHappensWithoutTheHost : Prop :=
  ∀ s : State, s.host = [] → step s = .next s

/-- R18, R220, R232, R48 (e): whatever the host does while an operation runs, short of reset, the operation ends as it
would have. The acts that come in time (`early`, counted in wire events: log entry 10) raise OVR where they are command
words and leave one recorded answer for each read; all others come, in order, after the operation. -/
def Obligations.HostCannotDisturbAnOperation : Prop :=
  ∀ (s u : State) (w : Word) (acts : List BusyAct) (es : List Event) (later : List HostAct), s.busy = false →
    s.host = .write .cmdw w acts :: later → (∀ a ∈ acts, ∀ j, a.touch ≠ .reset j) →
    exec (decodeWord w) { s with host := later, busy := true } = .next u → u.trace = s.trace ++ es →
    ∃ early late xs, acts = early ++ late ∧
      step s = .next { u with
        ovr := s.ovr || early.any BusyAct.isCommand
        answers := s.answers ++ xs
        host := late.map (fun a => a.touch.afterwards) ++ later } ∧
      xs.map Prod.fst = early.filterMap BusyAct.registerRead ∧
      ∀ n, n ≤ acts.length → (eventsBefore (acts.take n) ≤ es.length ↔ n ≤ early.length)

/-- R17, R15: a read of STATUS after `k` events of a running operation sees BUSY = 1 and the code of the operation
before it. -/
def Obligations.StatusReadWhileBusy : Prop :=
  ∀ (s u : State) (w : Word) (k : Nat) (es : List Event) (later : List HostAct), s.busy = false →
    s.host = .write .cmdw w [⟨k, .read .status⟩] :: later →
    exec (decodeWord w) s = .next u → u.trace = s.trace ++ es → k ≤ es.length →
    ∃ t x, step s = .next t ∧ t.answers = s.answers ++ [(.status, x)] ∧ x.getLsbD 0 = true ∧
      x.extractLsb' 8 4 = s.result.code ∧ x.getLsbD 2 = ssAfter s.ss (es.take k)

/-- R17, R12, R24, R232: a read of any register after `k` events of a running operation is recorded. CMDW reads 0; RDATA
and RXINFO read what they held before the operation, or, after its last event, what it leaves in them (where between
two events a register is written is the pseudocode's: log entry 10). -/
def Obligations.RegisterReadsWhileBusy : Prop :=
  ∀ (s u : State) (w : Word) (r : Reg) (k : Nat) (es : List Event) (later : List HostAct), s.busy = false →
    s.host = .write .cmdw w [⟨k, .read r⟩] :: later →
    exec (decodeWord w) s = .next u → u.trace = s.trace ++ es → k ≤ es.length →
    ∃ t x, step s = .next t ∧ t.answers = s.answers ++ [(r, x)] ∧ (r = .cmdw → x = 0) ∧
      (r = .rdata ∨ r = .rxinfo → x = if k < es.length then readReg r s else readReg r u)

/-- R151, C6: from the end of its frame to the end of its first poll, a request in range shows AwaitingReady1. -/
def Obligations.RequestShowsAwaitingReady1 : Prop :=
  ∀ (s : State) (len : Byte) (T : BitVec 16) (k : Nat) (later : List HostAct), s.busy = false →
    len.toNat ≤ 62 → T ≠ 0 → k < 4 →
    s.host = .write .cmdw (encodeWord (.cmd len T))
      [⟨(frameWrite s.par (frame 0xD4 (bufBytes s 0 len.toNat))).length + k, .read .status⟩] :: later →
    ∃ t x, step s = .next t ∧ t.answers = s.answers ++ [(.status, x)] ∧ x.extractLsb' 4 3 = 2

/-! ### Invariants and whole-machine rules -/

/-- R22, R17, R91: the invariant (BUF canonical and inside BUF_CAP, no operation running between steps, SCK at rest)
is kept by every step, whatever the host and the device do. -/
def Obligations.EveryStepKeepsTheInvariant : Prop :=
  ∀ s t : State, Inv s → step s = .next t → Inv t

/-- R32, R210: the reset state meets the invariant. -/
def Obligations.ResetMeetsTheInvariant : Prop :=
  Inv State.reset

/-- R33: no step changes the parameters. -/
def Obligations.ParametersNeverChange : Prop :=
  ∀ s t : State, step s = .next t → t.par = s.par

/-- R30, R48, R210: the wire trace only grows: no step, no reset takes an event back. -/
def Obligations.TraceOnlyGrows : Prop :=
  ∀ s t : State, step s = .next t → s.trace <+: t.trace

/-- R157, R180, R232: while the host's queue holds only the acts R232 gives it, a step always answers a next state, and the
queue still holds only such acts. -/
def Obligations.HostActsNeverStopTheMachine : Prop :=
  ∀ s : State, OnlyHostActs s → ∃ t, step s = .next t ∧ OnlyHostActs t

/-! ### The wire-format rows -/

/-- R67, R62, R63, R64: each wire-format row is its transaction (log entries 6, 7, 21: the model's reading of the
rows), its pins and their record included, from the state in which the device is to drive the bytes that are its own; of
a frame from the device BUF takes what it holds (R225, log entry 8); RESULT and BUSY are not touched, since a
transaction is no operation. -/
def Obligations.WireFormatTransactions : Prop :=
  ∀ (s : State) (payload : List Byte) (q r : Byte),
    (∃ t, exec (.frame .hostToDevice payload) s = .next t ∧ Traffic s t (frameWrite s.par (frame 0xD4 payload)) ∧
      t = { s with trace := t.trace, wave := t.wave, ss := true, sck := t.sck, mosi := t.mosi }) ∧
    (∃ t, exec (.frame .deviceToHost payload) s = .next t ∧
      let got := (frame 0xD5 payload).take s.par.bufCap
      Traffic { s with dev := frame 0xD5 payload ++ s.dev } t (bytesRead s.par got) ∧
      t.dev = (frame 0xD5 payload).drop s.par.bufCap ++ s.dev ∧
      (∀ k, k < got.length → t.buf.get? k = got[k]?) ∧ BufKeptFrom got.length s t ∧
      t = { s with
        trace := t.trace, wave := t.wave, ss := true, sck := t.sck, mosi := t.mosi, buf := t.buf, dev := t.dev }) ∧
    (∃ t, exec .ack s = .next t ∧ Traffic { s with dev := ackBytes ++ s.dev } t (bytesRead s.par ackBytes) ∧
      t = { s with trace := t.trace, wave := t.wave, ss := true, sck := t.sck, mosi := t.mosi }) ∧
    (∃ t, exec (.statusExchange q r) s = .next t ∧ Traffic { s with dev := r :: s.dev } t (pollExchange q r) ∧
      (t.ready = true ↔ r = 0x01) ∧
      t = { s with
        trace := t.trace, wave := t.wave, ss := true, sck := t.sck, mosi := t.mosi, ready := t.ready })

/-- R180, R232: a step stops for one thing only, and names it: bytes put on the wire that are no wire format, which no
act of R232 does (log entry 17). -/
def Obligations.StepStopsOnlyOnUnknownWireBytes : Prop :=
  ∀ s : State, (∃ t, step s = .next t) ∨
    ∃ bytes later, s.host = .wire bytes :: later ∧ step s = .refused .notAWireFormat ∧
      ∀ i, decode bytes = .ok i → isWireFormat i = false

/-! ### The platform's parameters -/

/-- R6, R146, R40, D1, D15: no step depends on TICK, HOST_BASE or HOST_STRIDE: on another platform it answers the same
state but for them. -/
def Obligations.NoStepDependsOnThePlatform : Prop :=
  ∀ (s t : State) (tick hostBase hostStride : Nat), step s = .next t →
    step (onPlatform tick hostBase hostStride s) = .next (onPlatform tick hostBase hostStride t)
end

