-- ==== Sys2Proof/Laws/Flags.lean ====
section
/-! SUPPORT. The laws of the byte arithmetic and of the frame function. -/

namespace Sys2Proof.Machine

/-- `neg8` is the two's complement of the byte. -/
theorem neg8_eq_neg (v : Byte) : neg8 v = -v := by
  apply BitVec.eq_of_toNat_eq
  simp only [neg8, BitVec.toNat_ofNat, BitVec.toNat_neg]
  have := v.isLt
  omega

@[simp] theorem sum8_nil : sum8 [] = 0 := rfl

@[simp] theorem sum8_cons (b : Byte) (bs : List Byte) : sum8 (b :: bs) = b + sum8 bs := rfl

@[simp] theorem sum8_append (p q : List Byte) : sum8 (p ++ q) = sum8 p + sum8 q := by
  induction p with
  | nil => simp
  | cons b bs ih => simp [ih, BitVec.add_assoc]

@[simp] theorem frame_length (d : Byte) (payload : List Byte) : (frame d payload).length = payload.length + 8 := by
  simp [frame, startBytes]

/-- LEN of a payload that fits is never zero and says its length plus one. -/
theorem lenByte_toNat {n : Nat} (h : n ≤ 254) : (lenByte n).toNat = n + 1 := by
  simp [lenByte]
  omega

/-- A frame as its bytes one after the other. -/
theorem frame_eq (d : Byte) (payload : List Byte) :
    frame d payload = 0x00 :: 0x00 :: 0xFF :: lenByte payload.length :: neg8 (lenByte payload.length) :: d ::
      (payload ++ [neg8 (d + sum8 payload), 0x00]) := by
  simp [frame, startBytes, postamble]

/-- A decoded payload fits LEN. -/
theorem decodeFrame_ok_length {raw payload : List Byte} {d : Byte} (h : decodeFrame raw = .ok d payload) :
    payload.length ≤ 254 := by
  have hb := (raw.getD 3 0).isLt
  unfold decodeFrame at h
  repeat' split at h
  all_goals cases h
  simp only [List.length_take]
  omega

end Sys2Proof.Machine
end

