-- ==== Sys2Proof/Laws/Memory.lean ====
section
/-! SUPPORT. The laws of BUF as a list: read after write, the canonical form and the bound of the indices are kept. -/

namespace Sys2Proof.Machine

@[simp] theorem Memory.get?_nil (i : Nat) : Memory.get? [] i = none := rfl

/-- A read of the index just written gives the byte written. -/
@[simp] theorem Memory.get?_set_same (m : Memory) (i : Nat) (v : Byte) : (m.set i v).get? i = some v := by
  induction m with
  | nil => simp [Memory.set, Memory.get?]
  | cons c rest ih =>
    obtain ⟨a, b⟩ := c
    simp only [Memory.set]
    split
    · simp [Memory.get?]
    · split
      · simp [Memory.get?]
      · rename_i h1 h2
        simp [Memory.get?, Ne.symm h2, ih]

/-- A read of any other index gives what it gave before. -/
theorem Memory.get?_set_ne (m : Memory) {i j : Nat} (v : Byte) (h : j ≠ i) : (m.set i v).get? j = m.get? j := by
  induction m with
  | nil => simp [Memory.set, Memory.get?, Ne.symm h]
  | cons c rest ih =>
    obtain ⟨a, b⟩ := c
    simp only [Memory.set]
    split
    · simp [Memory.get?, Ne.symm h]
    · split
      · rename_i h1 h2
        subst h2
        simp [Memory.get?, Ne.symm h]
      · simp [Memory.get?, ih]

theorem Memory.risesFrom_set (m : Memory) {lo i : Nat} (v : Byte) (h : m.risesFrom lo = true) (hi : lo ≤ i) :
    (m.set i v).risesFrom lo = true := by
  induction m generalizing lo with
  | nil => simp [Memory.set, Memory.risesFrom, hi]
  | cons c rest ih =>
    obtain ⟨a, b⟩ := c
    simp only [Memory.risesFrom, Bool.and_eq_true, decide_eq_true_eq] at h
    simp only [Memory.set]
    split
    · rename_i h1
      simp [Memory.risesFrom, hi, h.2, Nat.succ_le_of_lt h1]
    · split
      · rename_i h1 h2
        subst h2
        simp [Memory.risesFrom, hi, h.2]
      · rename_i h1 h2
        simp [Memory.risesFrom, h.1, ih h.2 (by omega)]

/-- A write keeps the canonical form. -/
theorem Memory.wf_set (m : Memory) (i : Nat) (v : Byte) (h : m.wf = true) : (m.set i v).wf = true :=
  Memory.risesFrom_set m v h (Nat.zero_le i)

theorem Memory.wf_nil : Memory.wf [] = true := rfl

/-- A write below the capacity keeps every index below it. -/
theorem Memory.within_set (m : Memory) {cap i : Nat} (v : Byte) (h : m.within cap = true) (hi : i < cap) :
    (m.set i v).within cap = true := by
  induction m with
  | nil => simp [Memory.set, Memory.within, hi]
  | cons c rest ih =>
    obtain ⟨a, b⟩ := c
    simp only [Memory.within, List.all_cons, Bool.and_eq_true, decide_eq_true_eq] at h ih ⊢
    simp only [Memory.set]
    split
    · simp [hi, h.1, h.2]
    · split
      · simp [hi, h.2]
      · simp [h.1, ih h.2]

/-- In a list whose indices rise from `lo`, no index below `lo` is listed. -/
theorem Memory.get?_below (m : Memory) {lo i : Nat} (h : m.risesFrom lo = true) (hi : i < lo) : m.get? i = none := by
  induction m generalizing lo with
  | nil => rfl
  | cons c rest ih =>
    obtain ⟨a, b⟩ := c
    simp only [Memory.risesFrom, Bool.and_eq_true, decide_eq_true_eq] at h
    have : a ≠ i := by omega
    simp [Memory.get?, this, ih h.2 (by omega)]

/-- Canonical memories that read alike are the same data. -/
theorem Memory.ext_of_risesFrom {m n : Memory} {lo : Nat} (hm : m.risesFrom lo = true) (hn : n.risesFrom lo = true)
    (h : ∀ i, m.get? i = n.get? i) : m = n := by
  induction m generalizing lo n with
  | nil =>
    cases n with
    | nil => rfl
    | cons c rest =>
      have := h c.1
      simp [Memory.get?] at this
  | cons c rest ih =>
    obtain ⟨a, b⟩ := c
    simp only [Memory.risesFrom, Bool.and_eq_true, decide_eq_true_eq] at hm
    cases n with
    | nil =>
      have := h a
      simp [Memory.get?] at this
    | cons c' rest' =>
      obtain ⟨a', b'⟩ := c'
      simp only [Memory.risesFrom, Bool.and_eq_true, decide_eq_true_eq] at hn
      have key : a = a' := by
        rcases Nat.lt_trichotomy a a' with hlt | heq | hgt
        · have := h a
          have hne : a' ≠ a := by omega
          simp [Memory.get?, hne, Memory.get?_below rest' hn.2 (show a < a' + 1 by omega)] at this
        · exact heq
        · have := h a'
          have hne : a ≠ a' := by omega
          simp [Memory.get?, hne, Memory.get?_below rest hm.2 (show a' < a + 1 by omega)] at this
      subst key
      have hb : b = b' := by simpa [Memory.get?] using h a
      subst hb
      congr 1
      refine ih hm.2 hn.2 fun i => ?_
      by_cases hi : a = i
      · subst hi
        rw [Memory.get?_below rest hm.2 (Nat.lt_succ_self a), Memory.get?_below rest' hn.2 (Nat.lt_succ_self a)]
      · simpa [Memory.get?, hi] using h i

/-- Equal memories are equal data: two canonical memories that read alike at every index are one list. -/
theorem Memory.ext_of_wf {m n : Memory} (hm : m.wf = true) (hn : n.wf = true) (h : ∀ i, m.get? i = n.get? i) : m = n :=
  Memory.ext_of_risesFrom hm hn h

end Sys2Proof.Machine
end

