-- ==== Sys2Proof/Laws/State.lean ====
section
/-! SUPPORT. Every field after every update of the state: what the update sets and that it leaves the rest. -/

namespace Sys2Proof.Machine

@[simp] theorem setSs_par (level : Bool) (s : State) : (setSs level s).par = s.par := rfl
@[simp] theorem setSs_ss (level : Bool) (s : State) : (setSs level s).ss = level := rfl
@[simp] theorem setSs_sck (level : Bool) (s : State) : (setSs level s).sck = s.sck := rfl
@[simp] theorem setSs_mosi (level : Bool) (s : State) : (setSs level s).mosi = s.mosi := rfl
@[simp] theorem setSs_busy (level : Bool) (s : State) : (setSs level s).busy = s.busy := rfl
@[simp] theorem setSs_ready (level : Bool) (s : State) : (setSs level s).ready = s.ready := rfl
@[simp] theorem setSs_ovr (level : Bool) (s : State) : (setSs level s).ovr = s.ovr := rfl
@[simp] theorem setSs_eng (level : Bool) (s : State) : (setSs level s).eng = s.eng := rfl
@[simp] theorem setSs_result (level : Bool) (s : State) : (setSs level s).result = s.result := rfl
@[simp] theorem setSs_rdata (level : Bool) (s : State) : (setSs level s).rdata = s.rdata := rfl
@[simp] theorem setSs_rxDir (level : Bool) (s : State) : (setSs level s).rxDir = s.rxDir := rfl
@[simp] theorem setSs_rxLen (level : Bool) (s : State) : (setSs level s).rxLen = s.rxLen := rfl
@[simp] theorem setSs_rxValid (level : Bool) (s : State) : (setSs level s).rxValid = s.rxValid := rfl
@[simp] theorem setSs_buf (level : Bool) (s : State) : (setSs level s).buf = s.buf := rfl
@[simp] theorem setSs_trace (level : Bool) (s : State) : (setSs level s).trace = s.trace := rfl
@[simp] theorem setSs_wave (level : Bool) (s : State) : (setSs level s).wave = s.wave ++ [.ss level] := rfl
@[simp] theorem setSs_dev (level : Bool) (s : State) : (setSs level s).dev = s.dev := rfl
@[simp] theorem setSs_host (level : Bool) (s : State) : (setSs level s).host = s.host := rfl
@[simp] theorem setSs_answers (level : Bool) (s : State) : (setSs level s).answers = s.answers := rfl
@[simp] theorem setSs_draw (level : Bool) (s : State) : (setSs level s).draw = s.draw := rfl

@[simp] theorem setSck_par (level : Bool) (s : State) : (setSck level s).par = s.par := rfl
@[simp] theorem setSck_ss (level : Bool) (s : State) : (setSck level s).ss = s.ss := rfl
@[simp] theorem setSck_sck (level : Bool) (s : State) : (setSck level s).sck = level := rfl
@[simp] theorem setSck_mosi (level : Bool) (s : State) : (setSck level s).mosi = s.mosi := rfl
@[simp] theorem setSck_busy (level : Bool) (s : State) : (setSck level s).busy = s.busy := rfl
@[simp] theorem setSck_ready (level : Bool) (s : State) : (setSck level s).ready = s.ready := rfl
@[simp] theorem setSck_ovr (level : Bool) (s : State) : (setSck level s).ovr = s.ovr := rfl
@[simp] theorem setSck_eng (level : Bool) (s : State) : (setSck level s).eng = s.eng := rfl
@[simp] theorem setSck_result (level : Bool) (s : State) : (setSck level s).result = s.result := rfl
@[simp] theorem setSck_rdata (level : Bool) (s : State) : (setSck level s).rdata = s.rdata := rfl
@[simp] theorem setSck_rxDir (level : Bool) (s : State) : (setSck level s).rxDir = s.rxDir := rfl
@[simp] theorem setSck_rxLen (level : Bool) (s : State) : (setSck level s).rxLen = s.rxLen := rfl
@[simp] theorem setSck_rxValid (level : Bool) (s : State) : (setSck level s).rxValid = s.rxValid := rfl
@[simp] theorem setSck_buf (level : Bool) (s : State) : (setSck level s).buf = s.buf := rfl
@[simp] theorem setSck_trace (level : Bool) (s : State) : (setSck level s).trace = s.trace := rfl
@[simp] theorem setSck_wave (level : Bool) (s : State) : (setSck level s).wave = s.wave ++ [.sck level] := rfl
@[simp] theorem setSck_dev (level : Bool) (s : State) : (setSck level s).dev = s.dev := rfl
@[simp] theorem setSck_host (level : Bool) (s : State) : (setSck level s).host = s.host := rfl
@[simp] theorem setSck_answers (level : Bool) (s : State) : (setSck level s).answers = s.answers := rfl
@[simp] theorem setSck_draw (level : Bool) (s : State) : (setSck level s).draw = s.draw := rfl

@[simp] theorem setMosi_par (level : Bool) (s : State) : (setMosi level s).par = s.par := rfl
@[simp] theorem setMosi_ss (level : Bool) (s : State) : (setMosi level s).ss = s.ss := rfl
@[simp] theorem setMosi_sck (level : Bool) (s : State) : (setMosi level s).sck = s.sck := rfl
@[simp] theorem setMosi_mosi (level : Bool) (s : State) : (setMosi level s).mosi = level := rfl
@[simp] theorem setMosi_busy (level : Bool) (s : State) : (setMosi level s).busy = s.busy := rfl
@[simp] theorem setMosi_ready (level : Bool) (s : State) : (setMosi level s).ready = s.ready := rfl
@[simp] theorem setMosi_ovr (level : Bool) (s : State) : (setMosi level s).ovr = s.ovr := rfl
@[simp] theorem setMosi_eng (level : Bool) (s : State) : (setMosi level s).eng = s.eng := rfl
@[simp] theorem setMosi_result (level : Bool) (s : State) : (setMosi level s).result = s.result := rfl
@[simp] theorem setMosi_rdata (level : Bool) (s : State) : (setMosi level s).rdata = s.rdata := rfl
@[simp] theorem setMosi_rxDir (level : Bool) (s : State) : (setMosi level s).rxDir = s.rxDir := rfl
@[simp] theorem setMosi_rxLen (level : Bool) (s : State) : (setMosi level s).rxLen = s.rxLen := rfl
@[simp] theorem setMosi_rxValid (level : Bool) (s : State) : (setMosi level s).rxValid = s.rxValid := rfl
@[simp] theorem setMosi_buf (level : Bool) (s : State) : (setMosi level s).buf = s.buf := rfl
@[simp] theorem setMosi_trace (level : Bool) (s : State) : (setMosi level s).trace = s.trace := rfl
@[simp] theorem setMosi_wave (level : Bool) (s : State) : (setMosi level s).wave = s.wave ++ [.mosi level] := rfl
@[simp] theorem setMosi_dev (level : Bool) (s : State) : (setMosi level s).dev = s.dev := rfl
@[simp] theorem setMosi_host (level : Bool) (s : State) : (setMosi level s).host = s.host := rfl
@[simp] theorem setMosi_answers (level : Bool) (s : State) : (setMosi level s).answers = s.answers := rfl
@[simp] theorem setMosi_draw (level : Bool) (s : State) : (setMosi level s).draw = s.draw := rfl

@[simp] theorem sampleMiso_par (level : Bool) (s : State) : (sampleMiso level s).par = s.par := rfl
@[simp] theorem sampleMiso_ss (level : Bool) (s : State) : (sampleMiso level s).ss = s.ss := rfl
@[simp] theorem sampleMiso_sck (level : Bool) (s : State) : (sampleMiso level s).sck = s.sck := rfl
@[simp] theorem sampleMiso_mosi (level : Bool) (s : State) : (sampleMiso level s).mosi = s.mosi := rfl
@[simp] theorem sampleMiso_busy (level : Bool) (s : State) : (sampleMiso level s).busy = s.busy := rfl
@[simp] theorem sampleMiso_ready (level : Bool) (s : State) : (sampleMiso level s).ready = s.ready := rfl
@[simp] theorem sampleMiso_ovr (level : Bool) (s : State) : (sampleMiso level s).ovr = s.ovr := rfl
@[simp] theorem sampleMiso_eng (level : Bool) (s : State) : (sampleMiso level s).eng = s.eng := rfl
@[simp] theorem sampleMiso_result (level : Bool) (s : State) : (sampleMiso level s).result = s.result := rfl
@[simp] theorem sampleMiso_rdata (level : Bool) (s : State) : (sampleMiso level s).rdata = s.rdata := rfl
@[simp] theorem sampleMiso_rxDir (level : Bool) (s : State) : (sampleMiso level s).rxDir = s.rxDir := rfl
@[simp] theorem sampleMiso_rxLen (level : Bool) (s : State) : (sampleMiso level s).rxLen = s.rxLen := rfl
@[simp] theorem sampleMiso_rxValid (level : Bool) (s : State) : (sampleMiso level s).rxValid = s.rxValid := rfl
@[simp] theorem sampleMiso_buf (level : Bool) (s : State) : (sampleMiso level s).buf = s.buf := rfl
@[simp] theorem sampleMiso_trace (level : Bool) (s : State) : (sampleMiso level s).trace = s.trace := rfl
@[simp] theorem sampleMiso_wave (level : Bool) (s : State) : (sampleMiso level s).wave = s.wave ++ [.sample level] := rfl
@[simp] theorem sampleMiso_dev (level : Bool) (s : State) : (sampleMiso level s).dev = s.dev := rfl
@[simp] theorem sampleMiso_host (level : Bool) (s : State) : (sampleMiso level s).host = s.host := rfl
@[simp] theorem sampleMiso_answers (level : Bool) (s : State) : (sampleMiso level s).answers = s.answers := rfl
@[simp] theorem sampleMiso_draw (level : Bool) (s : State) : (sampleMiso level s).draw = s.draw := rfl

@[simp] theorem record_par (e : Event) (s : State) : (record e s).par = s.par := rfl
@[simp] theorem record_ss (e : Event) (s : State) : (record e s).ss = s.ss := rfl
@[simp] theorem record_sck (e : Event) (s : State) : (record e s).sck = s.sck := rfl
@[simp] theorem record_mosi (e : Event) (s : State) : (record e s).mosi = s.mosi := rfl
@[simp] theorem record_busy (e : Event) (s : State) : (record e s).busy = s.busy := rfl
@[simp] theorem record_ready (e : Event) (s : State) : (record e s).ready = s.ready := rfl
@[simp] theorem record_ovr (e : Event) (s : State) : (record e s).ovr = s.ovr := rfl
@[simp] theorem record_eng (e : Event) (s : State) : (record e s).eng = s.eng := rfl
@[simp] theorem record_result (e : Event) (s : State) : (record e s).result = s.result := rfl
@[simp] theorem record_rdata (e : Event) (s : State) : (record e s).rdata = s.rdata := rfl
@[simp] theorem record_rxDir (e : Event) (s : State) : (record e s).rxDir = s.rxDir := rfl
@[simp] theorem record_rxLen (e : Event) (s : State) : (record e s).rxLen = s.rxLen := rfl
@[simp] theorem record_rxValid (e : Event) (s : State) : (record e s).rxValid = s.rxValid := rfl
@[simp] theorem record_buf (e : Event) (s : State) : (record e s).buf = s.buf := rfl
@[simp] theorem record_trace (e : Event) (s : State) : (record e s).trace = s.trace ++ [e] := rfl
@[simp] theorem record_wave (e : Event) (s : State) : (record e s).wave = s.wave := rfl
@[simp] theorem record_dev (e : Event) (s : State) : (record e s).dev = s.dev := rfl
@[simp] theorem record_host (e : Event) (s : State) : (record e s).host = s.host := rfl
@[simp] theorem record_answers (e : Event) (s : State) : (record e s).answers = s.answers := rfl
@[simp] theorem record_draw (e : Event) (s : State) : (record e s).draw = s.draw := rfl

@[simp] theorem select_par (s : State) : (select s).par = s.par := rfl
@[simp] theorem select_ss (s : State) : (select s).ss = false := rfl
@[simp] theorem select_sck (s : State) : (select s).sck = s.sck := rfl
@[simp] theorem select_mosi (s : State) : (select s).mosi = s.mosi := rfl
@[simp] theorem select_busy (s : State) : (select s).busy = s.busy := rfl
@[simp] theorem select_ready (s : State) : (select s).ready = s.ready := rfl
@[simp] theorem select_ovr (s : State) : (select s).ovr = s.ovr := rfl
@[simp] theorem select_eng (s : State) : (select s).eng = s.eng := rfl
@[simp] theorem select_result (s : State) : (select s).result = s.result := rfl
@[simp] theorem select_rdata (s : State) : (select s).rdata = s.rdata := rfl
@[simp] theorem select_rxDir (s : State) : (select s).rxDir = s.rxDir := rfl
@[simp] theorem select_rxLen (s : State) : (select s).rxLen = s.rxLen := rfl
@[simp] theorem select_rxValid (s : State) : (select s).rxValid = s.rxValid := rfl
@[simp] theorem select_buf (s : State) : (select s).buf = s.buf := rfl
@[simp] theorem select_trace (s : State) : (select s).trace = s.trace ++ [.sel] := rfl
@[simp] theorem select_wave (s : State) : (select s).wave = s.wave ++ [.ss false] := rfl
@[simp] theorem select_dev (s : State) : (select s).dev = s.dev := rfl
@[simp] theorem select_host (s : State) : (select s).host = s.host := rfl
@[simp] theorem select_answers (s : State) : (select s).answers = s.answers := rfl
@[simp] theorem select_draw (s : State) : (select s).draw = s.draw := rfl

@[simp] theorem deselect_par (s : State) : (deselect s).par = s.par := rfl
@[simp] theorem deselect_ss (s : State) : (deselect s).ss = true := rfl
@[simp] theorem deselect_sck (s : State) : (deselect s).sck = s.sck := rfl
@[simp] theorem deselect_mosi (s : State) : (deselect s).mosi = s.mosi := rfl
@[simp] theorem deselect_busy (s : State) : (deselect s).busy = s.busy := rfl
@[simp] theorem deselect_ready (s : State) : (deselect s).ready = s.ready := rfl
@[simp] theorem deselect_ovr (s : State) : (deselect s).ovr = s.ovr := rfl
@[simp] theorem deselect_eng (s : State) : (deselect s).eng = s.eng := rfl
@[simp] theorem deselect_result (s : State) : (deselect s).result = s.result := rfl
@[simp] theorem deselect_rdata (s : State) : (deselect s).rdata = s.rdata := rfl
@[simp] theorem deselect_rxDir (s : State) : (deselect s).rxDir = s.rxDir := rfl
@[simp] theorem deselect_rxLen (s : State) : (deselect s).rxLen = s.rxLen := rfl
@[simp] theorem deselect_rxValid (s : State) : (deselect s).rxValid = s.rxValid := rfl
@[simp] theorem deselect_buf (s : State) : (deselect s).buf = s.buf := rfl
@[simp] theorem deselect_trace (s : State) : (deselect s).trace = s.trace ++ [.dsl] := rfl
@[simp] theorem deselect_wave (s : State) : (deselect s).wave = s.wave ++ [.ss true] := rfl
@[simp] theorem deselect_dev (s : State) : (deselect s).dev = s.dev := rfl
@[simp] theorem deselect_host (s : State) : (deselect s).host = s.host := rfl
@[simp] theorem deselect_answers (s : State) : (deselect s).answers = s.answers := rfl
@[simp] theorem deselect_draw (s : State) : (deselect s).draw = s.draw := rfl

@[simp] theorem delay_par (n : Nat) (s : State) : (delay n s).par = s.par := rfl
@[simp] theorem delay_ss (n : Nat) (s : State) : (delay n s).ss = s.ss := rfl
@[simp] theorem delay_sck (n : Nat) (s : State) : (delay n s).sck = s.sck := rfl
@[simp] theorem delay_mosi (n : Nat) (s : State) : (delay n s).mosi = s.mosi := rfl
@[simp] theorem delay_busy (n : Nat) (s : State) : (delay n s).busy = s.busy := rfl
@[simp] theorem delay_ready (n : Nat) (s : State) : (delay n s).ready = s.ready := rfl
@[simp] theorem delay_ovr (n : Nat) (s : State) : (delay n s).ovr = s.ovr := rfl
@[simp] theorem delay_eng (n : Nat) (s : State) : (delay n s).eng = s.eng := rfl
@[simp] theorem delay_result (n : Nat) (s : State) : (delay n s).result = s.result := rfl
@[simp] theorem delay_rdata (n : Nat) (s : State) : (delay n s).rdata = s.rdata := rfl
@[simp] theorem delay_rxDir (n : Nat) (s : State) : (delay n s).rxDir = s.rxDir := rfl
@[simp] theorem delay_rxLen (n : Nat) (s : State) : (delay n s).rxLen = s.rxLen := rfl
@[simp] theorem delay_rxValid (n : Nat) (s : State) : (delay n s).rxValid = s.rxValid := rfl
@[simp] theorem delay_buf (n : Nat) (s : State) : (delay n s).buf = s.buf := rfl
@[simp] theorem delay_trace (n : Nat) (s : State) : (delay n s).trace = s.trace ++ [.d n] := rfl
@[simp] theorem delay_wave (n : Nat) (s : State) : (delay n s).wave = s.wave := rfl
@[simp] theorem delay_dev (n : Nat) (s : State) : (delay n s).dev = s.dev := rfl
@[simp] theorem delay_host (n : Nat) (s : State) : (delay n s).host = s.host := rfl
@[simp] theorem delay_answers (n : Nat) (s : State) : (delay n s).answers = s.answers := rfl
@[simp] theorem delay_draw (n : Nat) (s : State) : (delay n s).draw = s.draw := rfl

@[simp] theorem setReady_par (v : Byte) (s : State) : (setReady v s).par = s.par := rfl
@[simp] theorem setReady_ss (v : Byte) (s : State) : (setReady v s).ss = s.ss := rfl
@[simp] theorem setReady_sck (v : Byte) (s : State) : (setReady v s).sck = s.sck := rfl
@[simp] theorem setReady_mosi (v : Byte) (s : State) : (setReady v s).mosi = s.mosi := rfl
@[simp] theorem setReady_busy (v : Byte) (s : State) : (setReady v s).busy = s.busy := rfl
@[simp] theorem setReady_ready (v : Byte) (s : State) : (setReady v s).ready = isReady v := rfl
@[simp] theorem setReady_ovr (v : Byte) (s : State) : (setReady v s).ovr = s.ovr := rfl
@[simp] theorem setReady_eng (v : Byte) (s : State) : (setReady v s).eng = s.eng := rfl
@[simp] theorem setReady_result (v : Byte) (s : State) : (setReady v s).result = s.result := rfl
@[simp] theorem setReady_rdata (v : Byte) (s : State) : (setReady v s).rdata = s.rdata := rfl
@[simp] theorem setReady_rxDir (v : Byte) (s : State) : (setReady v s).rxDir = s.rxDir := rfl
@[simp] theorem setReady_rxLen (v : Byte) (s : State) : (setReady v s).rxLen = s.rxLen := rfl
@[simp] theorem setReady_rxValid (v : Byte) (s : State) : (setReady v s).rxValid = s.rxValid := rfl
@[simp] theorem setReady_buf (v : Byte) (s : State) : (setReady v s).buf = s.buf := rfl
@[simp] theorem setReady_trace (v : Byte) (s : State) : (setReady v s).trace = s.trace := rfl
@[simp] theorem setReady_wave (v : Byte) (s : State) : (setReady v s).wave = s.wave := rfl
@[simp] theorem setReady_dev (v : Byte) (s : State) : (setReady v s).dev = s.dev := rfl
@[simp] theorem setReady_host (v : Byte) (s : State) : (setReady v s).host = s.host := rfl
@[simp] theorem setReady_answers (v : Byte) (s : State) : (setReady v s).answers = s.answers := rfl
@[simp] theorem setReady_draw (v : Byte) (s : State) : (setReady v s).draw = s.draw := rfl

@[simp] theorem setEng_par (e : Eng) (s : State) : (setEng e s).par = s.par := rfl
@[simp] theorem setEng_ss (e : Eng) (s : State) : (setEng e s).ss = s.ss := rfl
@[simp] theorem setEng_sck (e : Eng) (s : State) : (setEng e s).sck = s.sck := rfl
@[simp] theorem setEng_mosi (e : Eng) (s : State) : (setEng e s).mosi = s.mosi := rfl
@[simp] theorem setEng_busy (e : Eng) (s : State) : (setEng e s).busy = s.busy := rfl
@[simp] theorem setEng_ready (e : Eng) (s : State) : (setEng e s).ready = s.ready := rfl
@[simp] theorem setEng_ovr (e : Eng) (s : State) : (setEng e s).ovr = s.ovr := rfl
@[simp] theorem setEng_eng (e : Eng) (s : State) : (setEng e s).eng = e := rfl
@[simp] theorem setEng_result (e : Eng) (s : State) : (setEng e s).result = s.result := rfl
@[simp] theorem setEng_rdata (e : Eng) (s : State) : (setEng e s).rdata = s.rdata := rfl
@[simp] theorem setEng_rxDir (e : Eng) (s : State) : (setEng e s).rxDir = s.rxDir := rfl
@[simp] theorem setEng_rxLen (e : Eng) (s : State) : (setEng e s).rxLen = s.rxLen := rfl
@[simp] theorem setEng_rxValid (e : Eng) (s : State) : (setEng e s).rxValid = s.rxValid := rfl
@[simp] theorem setEng_buf (e : Eng) (s : State) : (setEng e s).buf = s.buf := rfl
@[simp] theorem setEng_trace (e : Eng) (s : State) : (setEng e s).trace = s.trace := rfl
@[simp] theorem setEng_wave (e : Eng) (s : State) : (setEng e s).wave = s.wave := rfl
@[simp] theorem setEng_dev (e : Eng) (s : State) : (setEng e s).dev = s.dev := rfl
@[simp] theorem setEng_host (e : Eng) (s : State) : (setEng e s).host = s.host := rfl
@[simp] theorem setEng_answers (e : Eng) (s : State) : (setEng e s).answers = s.answers := rfl
@[simp] theorem setEng_draw (e : Eng) (s : State) : (setEng e s).draw = s.draw := rfl

@[simp] theorem setRdata_par (b : Byte) (s : State) : (setRdata b s).par = s.par := rfl
@[simp] theorem setRdata_ss (b : Byte) (s : State) : (setRdata b s).ss = s.ss := rfl
@[simp] theorem setRdata_sck (b : Byte) (s : State) : (setRdata b s).sck = s.sck := rfl
@[simp] theorem setRdata_mosi (b : Byte) (s : State) : (setRdata b s).mosi = s.mosi := rfl
@[simp] theorem setRdata_busy (b : Byte) (s : State) : (setRdata b s).busy = s.busy := rfl
@[simp] theorem setRdata_ready (b : Byte) (s : State) : (setRdata b s).ready = s.ready := rfl
@[simp] theorem setRdata_ovr (b : Byte) (s : State) : (setRdata b s).ovr = s.ovr := rfl
@[simp] theorem setRdata_eng (b : Byte) (s : State) : (setRdata b s).eng = s.eng := rfl
@[simp] theorem setRdata_result (b : Byte) (s : State) : (setRdata b s).result = s.result := rfl
@[simp] theorem setRdata_rdata (b : Byte) (s : State) : (setRdata b s).rdata = b := rfl
@[simp] theorem setRdata_rxDir (b : Byte) (s : State) : (setRdata b s).rxDir = s.rxDir := rfl
@[simp] theorem setRdata_rxLen (b : Byte) (s : State) : (setRdata b s).rxLen = s.rxLen := rfl
@[simp] theorem setRdata_rxValid (b : Byte) (s : State) : (setRdata b s).rxValid = s.rxValid := rfl
@[simp] theorem setRdata_buf (b : Byte) (s : State) : (setRdata b s).buf = s.buf := rfl
@[simp] theorem setRdata_trace (b : Byte) (s : State) : (setRdata b s).trace = s.trace := rfl
@[simp] theorem setRdata_wave (b : Byte) (s : State) : (setRdata b s).wave = s.wave := rfl
@[simp] theorem setRdata_dev (b : Byte) (s : State) : (setRdata b s).dev = s.dev := rfl
@[simp] theorem setRdata_host (b : Byte) (s : State) : (setRdata b s).host = s.host := rfl
@[simp] theorem setRdata_answers (b : Byte) (s : State) : (setRdata b s).answers = s.answers := rfl
@[simp] theorem setRdata_draw (b : Byte) (s : State) : (setRdata b s).draw = s.draw := rfl

@[simp] theorem bufStore_par (i : Nat) (v : Byte) (s : State) : (bufStore i v s).par = s.par := rfl
@[simp] theorem bufStore_ss (i : Nat) (v : Byte) (s : State) : (bufStore i v s).ss = s.ss := rfl
@[simp] theorem bufStore_sck (i : Nat) (v : Byte) (s : State) : (bufStore i v s).sck = s.sck := rfl
@[simp] theorem bufStore_mosi (i : Nat) (v : Byte) (s : State) : (bufStore i v s).mosi = s.mosi := rfl
@[simp] theorem bufStore_busy (i : Nat) (v : Byte) (s : State) : (bufStore i v s).busy = s.busy := rfl
@[simp] theorem bufStore_ready (i : Nat) (v : Byte) (s : State) : (bufStore i v s).ready = s.ready := rfl
@[simp] theorem bufStore_ovr (i : Nat) (v : Byte) (s : State) : (bufStore i v s).ovr = s.ovr := rfl
@[simp] theorem bufStore_eng (i : Nat) (v : Byte) (s : State) : (bufStore i v s).eng = s.eng := rfl
@[simp] theorem bufStore_result (i : Nat) (v : Byte) (s : State) : (bufStore i v s).result = s.result := rfl
@[simp] theorem bufStore_rdata (i : Nat) (v : Byte) (s : State) : (bufStore i v s).rdata = s.rdata := rfl
@[simp] theorem bufStore_rxDir (i : Nat) (v : Byte) (s : State) : (bufStore i v s).rxDir = s.rxDir := rfl
@[simp] theorem bufStore_rxLen (i : Nat) (v : Byte) (s : State) : (bufStore i v s).rxLen = s.rxLen := rfl
@[simp] theorem bufStore_rxValid (i : Nat) (v : Byte) (s : State) : (bufStore i v s).rxValid = s.rxValid := rfl
@[simp] theorem bufStore_buf (i : Nat) (v : Byte) (s : State) : (bufStore i v s).buf = s.buf.set i v := rfl
@[simp] theorem bufStore_trace (i : Nat) (v : Byte) (s : State) : (bufStore i v s).trace = s.trace := rfl
@[simp] theorem bufStore_wave (i : Nat) (v : Byte) (s : State) : (bufStore i v s).wave = s.wave := rfl
@[simp] theorem bufStore_dev (i : Nat) (v : Byte) (s : State) : (bufStore i v s).dev = s.dev := rfl
@[simp] theorem bufStore_host (i : Nat) (v : Byte) (s : State) : (bufStore i v s).host = s.host := rfl
@[simp] theorem bufStore_answers (i : Nat) (v : Byte) (s : State) : (bufStore i v s).answers = s.answers := rfl
@[simp] theorem bufStore_draw (i : Nat) (v : Byte) (s : State) : (bufStore i v s).draw = s.draw := rfl

@[simp] theorem accept_par (s : State) : (accept s).par = s.par := rfl
@[simp] theorem accept_ss (s : State) : (accept s).ss = s.ss := rfl
@[simp] theorem accept_sck (s : State) : (accept s).sck = s.sck := rfl
@[simp] theorem accept_mosi (s : State) : (accept s).mosi = s.mosi := rfl
@[simp] theorem accept_busy (s : State) : (accept s).busy = true := rfl
@[simp] theorem accept_ready (s : State) : (accept s).ready = s.ready := rfl
@[simp] theorem accept_ovr (s : State) : (accept s).ovr = s.ovr := rfl
@[simp] theorem accept_eng (s : State) : (accept s).eng = s.eng := rfl
@[simp] theorem accept_result (s : State) : (accept s).result = s.result := rfl
@[simp] theorem accept_rdata (s : State) : (accept s).rdata = s.rdata := rfl
@[simp] theorem accept_rxDir (s : State) : (accept s).rxDir = s.rxDir := rfl
@[simp] theorem accept_rxLen (s : State) : (accept s).rxLen = s.rxLen := rfl
@[simp] theorem accept_rxValid (s : State) : (accept s).rxValid = s.rxValid := rfl
@[simp] theorem accept_buf (s : State) : (accept s).buf = s.buf := rfl
@[simp] theorem accept_trace (s : State) : (accept s).trace = s.trace := rfl
@[simp] theorem accept_wave (s : State) : (accept s).wave = s.wave := rfl
@[simp] theorem accept_dev (s : State) : (accept s).dev = s.dev := rfl
@[simp] theorem accept_host (s : State) : (accept s).host = s.host := rfl
@[simp] theorem accept_answers (s : State) : (accept s).answers = s.answers := rfl
@[simp] theorem accept_draw (s : State) : (accept s).draw = s.draw := rfl

@[simp] theorem finish_par (c : Code) (s : State) : (finish c s).par = s.par := rfl
@[simp] theorem finish_ss (c : Code) (s : State) : (finish c s).ss = s.ss := rfl
@[simp] theorem finish_sck (c : Code) (s : State) : (finish c s).sck = s.sck := rfl
@[simp] theorem finish_mosi (c : Code) (s : State) : (finish c s).mosi = s.mosi := rfl
@[simp] theorem finish_busy (c : Code) (s : State) : (finish c s).busy = false := rfl
@[simp] theorem finish_ready (c : Code) (s : State) : (finish c s).ready = s.ready := rfl
@[simp] theorem finish_ovr (c : Code) (s : State) : (finish c s).ovr = s.ovr := rfl
@[simp] theorem finish_eng (c : Code) (s : State) : (finish c s).eng = s.eng := rfl
@[simp] theorem finish_result (c : Code) (s : State) : (finish c s).result = c := rfl
@[simp] theorem finish_rdata (c : Code) (s : State) : (finish c s).rdata = s.rdata := rfl
@[simp] theorem finish_rxDir (c : Code) (s : State) : (finish c s).rxDir = s.rxDir := rfl
@[simp] theorem finish_rxLen (c : Code) (s : State) : (finish c s).rxLen = s.rxLen := rfl
@[simp] theorem finish_rxValid (c : Code) (s : State) : (finish c s).rxValid = s.rxValid := rfl
@[simp] theorem finish_buf (c : Code) (s : State) : (finish c s).buf = s.buf := rfl
@[simp] theorem finish_trace (c : Code) (s : State) : (finish c s).trace = s.trace := rfl
@[simp] theorem finish_wave (c : Code) (s : State) : (finish c s).wave = s.wave := rfl
@[simp] theorem finish_dev (c : Code) (s : State) : (finish c s).dev = s.dev := rfl
@[simp] theorem finish_host (c : Code) (s : State) : (finish c s).host = s.host := rfl
@[simp] theorem finish_answers (c : Code) (s : State) : (finish c s).answers = s.answers := rfl
@[simp] theorem finish_draw (c : Code) (s : State) : (finish c s).draw = s.draw + 1 := rfl

@[simp] theorem overrun_par (s : State) : (overrun s).par = s.par := rfl
@[simp] theorem overrun_ss (s : State) : (overrun s).ss = s.ss := rfl
@[simp] theorem overrun_sck (s : State) : (overrun s).sck = s.sck := rfl
@[simp] theorem overrun_mosi (s : State) : (overrun s).mosi = s.mosi := rfl
@[simp] theorem overrun_busy (s : State) : (overrun s).busy = s.busy := rfl
@[simp] theorem overrun_ready (s : State) : (overrun s).ready = s.ready := rfl
@[simp] theorem overrun_ovr (s : State) : (overrun s).ovr = true := rfl
@[simp] theorem overrun_eng (s : State) : (overrun s).eng = s.eng := rfl
@[simp] theorem overrun_result (s : State) : (overrun s).result = s.result := rfl
@[simp] theorem overrun_rdata (s : State) : (overrun s).rdata = s.rdata := rfl
@[simp] theorem overrun_rxDir (s : State) : (overrun s).rxDir = s.rxDir := rfl
@[simp] theorem overrun_rxLen (s : State) : (overrun s).rxLen = s.rxLen := rfl
@[simp] theorem overrun_rxValid (s : State) : (overrun s).rxValid = s.rxValid := rfl
@[simp] theorem overrun_buf (s : State) : (overrun s).buf = s.buf := rfl
@[simp] theorem overrun_trace (s : State) : (overrun s).trace = s.trace := rfl
@[simp] theorem overrun_wave (s : State) : (overrun s).wave = s.wave := rfl
@[simp] theorem overrun_dev (s : State) : (overrun s).dev = s.dev := rfl
@[simp] theorem overrun_host (s : State) : (overrun s).host = s.host := rfl
@[simp] theorem overrun_answers (s : State) : (overrun s).answers = s.answers := rfl
@[simp] theorem overrun_draw (s : State) : (overrun s).draw = s.draw := rfl

@[simp] theorem supply_par (bytes : List Byte) (s : State) : (supply bytes s).par = s.par := rfl
@[simp] theorem supply_ss (bytes : List Byte) (s : State) : (supply bytes s).ss = s.ss := rfl
@[simp] theorem supply_sck (bytes : List Byte) (s : State) : (supply bytes s).sck = s.sck := rfl
@[simp] theorem supply_mosi (bytes : List Byte) (s : State) : (supply bytes s).mosi = s.mosi := rfl
@[simp] theorem supply_busy (bytes : List Byte) (s : State) : (supply bytes s).busy = s.busy := rfl
@[simp] theorem supply_ready (bytes : List Byte) (s : State) : (supply bytes s).ready = s.ready := rfl
@[simp] theorem supply_ovr (bytes : List Byte) (s : State) : (supply bytes s).ovr = s.ovr := rfl
@[simp] theorem supply_eng (bytes : List Byte) (s : State) : (supply bytes s).eng = s.eng := rfl
@[simp] theorem supply_result (bytes : List Byte) (s : State) : (supply bytes s).result = s.result := rfl
@[simp] theorem supply_rdata (bytes : List Byte) (s : State) : (supply bytes s).rdata = s.rdata := rfl
@[simp] theorem supply_rxDir (bytes : List Byte) (s : State) : (supply bytes s).rxDir = s.rxDir := rfl
@[simp] theorem supply_rxLen (bytes : List Byte) (s : State) : (supply bytes s).rxLen = s.rxLen := rfl
@[simp] theorem supply_rxValid (bytes : List Byte) (s : State) : (supply bytes s).rxValid = s.rxValid := rfl
@[simp] theorem supply_buf (bytes : List Byte) (s : State) : (supply bytes s).buf = s.buf := rfl
@[simp] theorem supply_trace (bytes : List Byte) (s : State) : (supply bytes s).trace = s.trace := rfl
@[simp] theorem supply_wave (bytes : List Byte) (s : State) : (supply bytes s).wave = s.wave := rfl
@[simp] theorem supply_dev (bytes : List Byte) (s : State) : (supply bytes s).dev = bytes ++ s.dev := rfl
@[simp] theorem supply_host (bytes : List Byte) (s : State) : (supply bytes s).host = s.host := rfl
@[simp] theorem supply_answers (bytes : List Byte) (s : State) : (supply bytes s).answers = s.answers := rfl
@[simp] theorem supply_draw (bytes : List Byte) (s : State) : (supply bytes s).draw = s.draw := rfl

@[simp] theorem answer_par (r : Reg) (s : State) : (answer r s).par = s.par := rfl
@[simp] theorem answer_ss (r : Reg) (s : State) : (answer r s).ss = s.ss := rfl
@[simp] theorem answer_sck (r : Reg) (s : State) : (answer r s).sck = s.sck := rfl
@[simp] theorem answer_mosi (r : Reg) (s : State) : (answer r s).mosi = s.mosi := rfl
@[simp] theorem answer_busy (r : Reg) (s : State) : (answer r s).busy = s.busy := rfl
@[simp] theorem answer_ready (r : Reg) (s : State) : (answer r s).ready = s.ready := rfl
@[simp] theorem answer_ovr (r : Reg) (s : State) : (answer r s).ovr = s.ovr := rfl
@[simp] theorem answer_eng (r : Reg) (s : State) : (answer r s).eng = s.eng := rfl
@[simp] theorem answer_result (r : Reg) (s : State) : (answer r s).result = s.result := rfl
@[simp] theorem answer_rdata (r : Reg) (s : State) : (answer r s).rdata = s.rdata := rfl
@[simp] theorem answer_rxDir (r : Reg) (s : State) : (answer r s).rxDir = s.rxDir := rfl
@[simp] theorem answer_rxLen (r : Reg) (s : State) : (answer r s).rxLen = s.rxLen := rfl
@[simp] theorem answer_rxValid (r : Reg) (s : State) : (answer r s).rxValid = s.rxValid := rfl
@[simp] theorem answer_buf (r : Reg) (s : State) : (answer r s).buf = s.buf := rfl
@[simp] theorem answer_trace (r : Reg) (s : State) : (answer r s).trace = s.trace := rfl
@[simp] theorem answer_wave (r : Reg) (s : State) : (answer r s).wave = s.wave := rfl
@[simp] theorem answer_dev (r : Reg) (s : State) : (answer r s).dev = s.dev := rfl
@[simp] theorem answer_host (r : Reg) (s : State) : (answer r s).host = s.host := rfl
@[simp] theorem answer_answers (r : Reg) (s : State) : (answer r s).answers = s.answers ++ [(r, readReg r s)] := rfl
@[simp] theorem answer_draw (r : Reg) (s : State) : (answer r s).draw = s.draw := rfl

@[simp] theorem requeue_par (acts : List BusyAct) (s : State) : (requeue acts s).par = s.par := rfl
@[simp] theorem requeue_ss (acts : List BusyAct) (s : State) : (requeue acts s).ss = s.ss := rfl
@[simp] theorem requeue_sck (acts : List BusyAct) (s : State) : (requeue acts s).sck = s.sck := rfl
@[simp] theorem requeue_mosi (acts : List BusyAct) (s : State) : (requeue acts s).mosi = s.mosi := rfl
@[simp] theorem requeue_busy (acts : List BusyAct) (s : State) : (requeue acts s).busy = s.busy := rfl
@[simp] theorem requeue_ready (acts : List BusyAct) (s : State) : (requeue acts s).ready = s.ready := rfl
@[simp] theorem requeue_ovr (acts : List BusyAct) (s : State) : (requeue acts s).ovr = s.ovr := rfl
@[simp] theorem requeue_eng (acts : List BusyAct) (s : State) : (requeue acts s).eng = s.eng := rfl
@[simp] theorem requeue_result (acts : List BusyAct) (s : State) : (requeue acts s).result = s.result := rfl
@[simp] theorem requeue_rdata (acts : List BusyAct) (s : State) : (requeue acts s).rdata = s.rdata := rfl
@[simp] theorem requeue_rxDir (acts : List BusyAct) (s : State) : (requeue acts s).rxDir = s.rxDir := rfl
@[simp] theorem requeue_rxLen (acts : List BusyAct) (s : State) : (requeue acts s).rxLen = s.rxLen := rfl
@[simp] theorem requeue_rxValid (acts : List BusyAct) (s : State) : (requeue acts s).rxValid = s.rxValid := rfl
@[simp] theorem requeue_buf (acts : List BusyAct) (s : State) : (requeue acts s).buf = s.buf := rfl
@[simp] theorem requeue_trace (acts : List BusyAct) (s : State) : (requeue acts s).trace = s.trace := rfl
@[simp] theorem requeue_wave (acts : List BusyAct) (s : State) : (requeue acts s).wave = s.wave := rfl
@[simp] theorem requeue_dev (acts : List BusyAct) (s : State) : (requeue acts s).dev = s.dev := rfl
@[simp] theorem requeue_host (acts : List BusyAct) (s : State) : (requeue acts s).host = acts.map (fun a => a.touch.afterwards) ++ s.host := rfl
@[simp] theorem requeue_answers (acts : List BusyAct) (s : State) : (requeue acts s).answers = s.answers := rfl
@[simp] theorem requeue_draw (acts : List BusyAct) (s : State) : (requeue acts s).draw = s.draw := rfl

@[simp] theorem hardReset_par (s : State) : (hardReset s).par = s.par := rfl
@[simp] theorem hardReset_ss (s : State) : (hardReset s).ss = true := rfl
@[simp] theorem hardReset_sck (s : State) : (hardReset s).sck = s.par.cpol := rfl
@[simp] theorem hardReset_mosi (s : State) : (hardReset s).mosi = false := rfl
@[simp] theorem hardReset_busy (s : State) : (hardReset s).busy = false := rfl
@[simp] theorem hardReset_ready (s : State) : (hardReset s).ready = false := rfl
@[simp] theorem hardReset_ovr (s : State) : (hardReset s).ovr = false := rfl
@[simp] theorem hardReset_eng (s : State) : (hardReset s).eng = .idle := rfl
@[simp] theorem hardReset_result (s : State) : (hardReset s).result = .ok := rfl
@[simp] theorem hardReset_rdata (s : State) : (hardReset s).rdata = 0 := rfl
@[simp] theorem hardReset_rxDir (s : State) : (hardReset s).rxDir = 0 := rfl
@[simp] theorem hardReset_rxLen (s : State) : (hardReset s).rxLen = 0 := rfl
@[simp] theorem hardReset_rxValid (s : State) : (hardReset s).rxValid = false := rfl
@[simp] theorem hardReset_buf (s : State) : (hardReset s).buf = [] := rfl
@[simp] theorem hardReset_trace (s : State) : (hardReset s).trace = s.trace := rfl
@[simp] theorem hardReset_wave (s : State) : (hardReset s).wave = s.wave ++ [.ss true, .sck s.par.cpol, .mosi false] := rfl
@[simp] theorem hardReset_dev (s : State) : (hardReset s).dev = s.dev := rfl
@[simp] theorem hardReset_host (s : State) : (hardReset s).host = s.host := rfl
@[simp] theorem hardReset_answers (s : State) : (hardReset s).answers = s.answers := rfl
@[simp] theorem hardReset_draw (s : State) : (hardReset s).draw = s.draw + 1 := rfl

@[simp] theorem setRxinfo_par (d : Decoded) (s : State) : (setRxinfo d s).par = s.par := by cases d <;> rfl
@[simp] theorem setRxinfo_ss (d : Decoded) (s : State) : (setRxinfo d s).ss = s.ss := by cases d <;> rfl
@[simp] theorem setRxinfo_sck (d : Decoded) (s : State) : (setRxinfo d s).sck = s.sck := by cases d <;> rfl
@[simp] theorem setRxinfo_mosi (d : Decoded) (s : State) : (setRxinfo d s).mosi = s.mosi := by cases d <;> rfl
@[simp] theorem setRxinfo_busy (d : Decoded) (s : State) : (setRxinfo d s).busy = s.busy := by cases d <;> rfl
@[simp] theorem setRxinfo_ready (d : Decoded) (s : State) : (setRxinfo d s).ready = s.ready := by cases d <;> rfl
@[simp] theorem setRxinfo_ovr (d : Decoded) (s : State) : (setRxinfo d s).ovr = s.ovr := by cases d <;> rfl
@[simp] theorem setRxinfo_eng (d : Decoded) (s : State) : (setRxinfo d s).eng = s.eng := by cases d <;> rfl
@[simp] theorem setRxinfo_result (d : Decoded) (s : State) : (setRxinfo d s).result = s.result := by cases d <;> rfl
@[simp] theorem setRxinfo_rdata (d : Decoded) (s : State) : (setRxinfo d s).rdata = s.rdata := by cases d <;> rfl
@[simp] theorem setRxinfo_buf (d : Decoded) (s : State) : (setRxinfo d s).buf = s.buf := by cases d <;> rfl
@[simp] theorem setRxinfo_trace (d : Decoded) (s : State) : (setRxinfo d s).trace = s.trace := by cases d <;> rfl
@[simp] theorem setRxinfo_wave (d : Decoded) (s : State) : (setRxinfo d s).wave = s.wave := by cases d <;> rfl
@[simp] theorem setRxinfo_dev (d : Decoded) (s : State) : (setRxinfo d s).dev = s.dev := by cases d <;> rfl
@[simp] theorem setRxinfo_host (d : Decoded) (s : State) : (setRxinfo d s).host = s.host := by cases d <;> rfl
@[simp] theorem setRxinfo_answers (d : Decoded) (s : State) : (setRxinfo d s).answers = s.answers := by cases d <;> rfl
@[simp] theorem setRxinfo_draw (d : Decoded) (s : State) : (setRxinfo d s).draw = s.draw := by cases d <;> rfl

end Sys2Proof.Machine
end

