-- ==== Sys2Proof/Laws/Traffic.lean ====
section
/-! SUPPORT. What each primitive does, said once: the trace events it makes and that it changes nothing else; and how
stretches of traffic join. -/

namespace Sys2Proof.Machine

/-- Every field that is neither a pin, a record of the pins, nor the device's script is as it was. -/
structure CoreKept (s t : State) : Prop where
  busy : t.busy = s.busy
  ready : t.ready = s.ready
  ovr : t.ovr = s.ovr
  eng : t.eng = s.eng
  result : t.result = s.result
  rdata : t.rdata = s.rdata
  rxDir : t.rxDir = s.rxDir
  rxLen : t.rxLen = s.rxLen
  rxValid : t.rxValid = s.rxValid
  buf : t.buf = s.buf
  host : t.host = s.host
  answers : t.answers = s.answers
  draw : t.draw = s.draw

theorem CoreKept.refl (s : State) : CoreKept s s := by constructor <;> rfl

theorem CoreKept.trans {s t u : State} (h : CoreKept s t) (k : CoreKept t u) : CoreKept s u where
  busy := k.busy.trans h.busy
  ready := k.ready.trans h.ready
  ovr := k.ovr.trans h.ovr
  eng := k.eng.trans h.eng
  result := k.result.trans h.result
  rdata := k.rdata.trans h.rdata
  rxDir := k.rxDir.trans h.rxDir
  rxLen := k.rxLen.trans h.rxLen
  rxValid := k.rxValid.trans h.rxValid
  buf := k.buf.trans h.buf
  host := k.host.trans h.host
  answers := k.answers.trans h.answers
  draw := k.draw.trans h.draw

/-- Bytes of BUF read the same where the core is kept. -/
theorem CoreKept.bufByte {s t : State} (h : CoreKept s t) (i : Nat) : bufByte t i = bufByte s i := by
  simp [Machine.bufByte, h.buf, h.draw]

theorem CoreKept.bufBytes {s t : State} (h : CoreKept s t) (i n : Nat) : bufBytes t i n = bufBytes s i n := by
  induction n generalizing i with
  | zero => rfl
  | succ n ih => simp [Machine.bufBytes, ih, h.bufByte]

/-! ### Joining traffic -/

theorem readsOf_append (es fs : List Event) : readsOf (es ++ fs) = readsOf es ++ readsOf fs := by
  induction es with
  | nil => rfl
  | cons e es ih => cases e <;> simp [readsOf, ih]

theorem ssAfter_append (l : Bool) (es fs : List Event) : ssAfter l (es ++ fs) = ssAfter (ssAfter l es) fs := by
  simp [ssAfter, List.foldl_append]

theorem mosiAfter_append (l : Bool) (es fs : List Event) : mosiAfter l (es ++ fs) = mosiAfter (mosiAfter l es) fs := by
  simp [mosiAfter, List.foldl_append]

theorem sckAfter_append (p : Config.Params) (l : Bool) (es fs : List Event) :
    sckAfter p l (es ++ fs) = sckAfter p (sckAfter p l es) fs := by
  simp [sckAfter, List.foldl_append]

theorem deviceDrove_append (dev : List Byte) (past es fs : List Event) :
    DeviceDrove dev past (es ++ fs) ↔
      DeviceDrove dev past es ∧ DeviceDrove (dev.drop (readsOf es).length) (past ++ es) fs := by
  induction es generalizing dev past with
  | nil => simp [DeviceDrove, readsOf]
  | cons e es ih =>
    cases e <;> simp [DeviceDrove, readsOf, ih, and_assoc, List.drop_tail]

theorem Traffic.refl (s : State) : Traffic s s [] := by
  constructor <;> simp [ssAfter, mosiAfter, sckAfter, readsOf, DeviceDrove]

theorem Traffic.trans {s t u : State} {es fs : List Event} (h : Traffic s t es) (k : Traffic t u fs) :
    Traffic s u (es ++ fs) where
  par := k.par.trans h.par
  trace := by rw [k.trace, h.trace, List.append_assoc]
  ss := by rw [k.ss, h.ss, ssAfter_append]
  mosi := by rw [k.mosi, h.mosi, mosiAfter_append]
  sck := by rw [k.sck, h.par, h.sck, sckAfter_append]
  wave := by rw [k.wave, h.par, h.wave, List.flatMap_append, List.append_assoc]
  script := by rw [k.script, h.script, List.drop_drop, readsOf_append, List.length_append]
  drove := by
    rw [deviceDrove_append]
    refine ⟨h.drove, ?_⟩
    have := k.drove
    rwa [h.script, h.trace] at this

/-- A change of fields that no pin and no record holds makes no traffic. -/
theorem Traffic.of_fields {s t u : State} {es : List Event} (h : Traffic s t es) (par : u.par = t.par)
    (trace : u.trace = t.trace) (ss : u.ss = t.ss) (mosi : u.mosi = t.mosi) (sck : u.sck = t.sck)
    (wave : u.wave = t.wave) (dev : u.dev = t.dev) : Traffic s u es where
  par := by rw [par, h.par]
  trace := by rw [trace, h.trace]
  ss := by rw [ss, h.ss]
  mosi := by rw [mosi, h.mosi]
  sck := by rw [sck, h.sck]
  wave := by rw [wave, h.wave]
  script := by rw [dev, h.script]
  drove := h.drove

/-! ### Bit slots -/

/-- A write slot drives MOSI to its bit and leaves SCK at rest; only the pins and their record change. -/
theorem writeSlot_eq (bit : Bool) (s : State) :
    writeSlot bit s =
      { s with mosi := bit, sck := s.par.cpol, wave := s.wave ++ writeSlotWave s.par bit } := by
  unfold writeSlot writeSlotWave
  split <;> simp_all [trailingEdge, leadingEdge, setSck, setMosi]

/-- A read slot leaves SCK at rest; only SCK and the record of the pins change. -/
theorem readSlot_eq (level : Bool) (s : State) :
    readSlot level s = { s with sck := s.par.cpol, wave := s.wave ++ readSlotWave s.par level } := by
  unfold readSlot readSlotWave
  split <;> simp_all [trailingEdge, leadingEdge, setSck, sampleMiso]

theorem writeSlots_eq (bits : List Bool) (s : State) :
    writeSlots bits s =
      { s with
        mosi := bits.getLastD s.mosi
        sck := if bits = [] then s.sck else s.par.cpol
        wave := s.wave ++ bits.flatMap (writeSlotWave s.par) } := by
  induction bits generalizing s with
  | nil => simp [writeSlots]
  | cons b bs ih =>
    have h : writeSlots (b :: bs) s = writeSlots bs (writeSlot b s) := rfl
    rw [h, ih, writeSlot_eq]
    cases bs <;> simp [List.getLast?_cons]

theorem readSlots_eq (levels : List Bool) (s : State) :
    readSlots levels s =
      { s with
        sck := if levels = [] then s.sck else s.par.cpol
        wave := s.wave ++ levels.flatMap (readSlotWave s.par) } := by
  induction levels generalizing s with
  | nil => simp [readSlots]
  | cons b bs ih =>
    have h : readSlots (b :: bs) s = readSlots bs (readSlot b s) := rfl
    rw [h, ih, readSlot_eq]
    cases bs <;> simp

/-- Eight levels in wire order make the byte they are the bits of. -/
@[simp] theorem byteOfWireBits_wireBits (b : Byte) : byteOfWireBits (wireBits b) = b := by
  revert b
  decide

@[simp] theorem spiReadValue_eq (s : State) : spiReadValue s = deviceByte s := by
  simp [spiReadValue]

/-! ### The primitives -/

/-- `SpiWrite(b)`: MOSI keeps bit 7, SCK is at rest, one event; nothing else changes. -/
theorem spiWrite_eq (b : Byte) (s : State) :
    spiWrite b s =
      { s with
        mosi := b.getLsbD 7
        sck := s.par.cpol
        wave := s.wave ++ (wireBits b).flatMap (writeSlotWave s.par)
        trace := s.trace ++ [.w b] } := by
  unfold spiWrite
  rw [writeSlots_eq]
  simp [record, wireBits]

/-- `SpiRead()`: the device's byte is consumed, SCK is at rest, one event; nothing else changes. -/
theorem spiRead_eq (s : State) :
    spiRead s =
      { s with
        sck := s.par.cpol
        wave := s.wave ++ (wireBits (deviceByte s)).flatMap (readSlotWave s.par)
        trace := s.trace ++ [.r (deviceByte s)]
        dev := s.dev.tail } := by
  unfold spiRead
  rw [readSlots_eq]
  simp [record, wireBits]

theorem traffic_select (s : State) : Traffic s (select s) [.sel] := by
  constructor <;> simp [ssAfter, mosiAfter, sckAfter, readsOf, DeviceDrove, eventWave]

theorem traffic_deselect (s : State) : Traffic s (deselect s) [.dsl] := by
  constructor <;> simp [ssAfter, mosiAfter, sckAfter, readsOf, DeviceDrove, eventWave]

theorem traffic_delay (n : Nat) (s : State) : Traffic s (delay n s) [.d n] := by
  constructor <;> simp [ssAfter, mosiAfter, sckAfter, readsOf, DeviceDrove, eventWave]

theorem traffic_spiWrite (b : Byte) (s : State) : Traffic s (spiWrite b s) [.w b] := by
  rw [spiWrite_eq]
  constructor <;> simp [ssAfter, mosiAfter, sckAfter, readsOf, DeviceDrove, eventWave]

theorem traffic_spiRead (s : State) : Traffic s (spiRead s) [.r (deviceByte s)] := by
  rw [spiRead_eq]
  constructor <;> simp [ssAfter, mosiAfter, sckAfter, readsOf, DeviceDrove, eventWave, deviceByte]

theorem coreKept_select (s : State) : CoreKept s (select s) := by constructor <;> rfl

theorem coreKept_deselect (s : State) : CoreKept s (deselect s) := by constructor <;> rfl

theorem coreKept_delay (n : Nat) (s : State) : CoreKept s (delay n s) := by constructor <;> rfl

theorem coreKept_spiWrite (b : Byte) (s : State) : CoreKept s (spiWrite b s) := by
  rw [spiWrite_eq]
  constructor <;> rfl

theorem coreKept_spiRead (s : State) : CoreKept s (spiRead s) := by
  rw [spiRead_eq]
  constructor <;> rfl

end Sys2Proof.Machine
end

