-- ==== Sys2Proof/Laws/Prog.lean ====
section
/-! SUPPORT. What each procedure of the pseudocode does, said once, and what every program keeps. -/

namespace Sys2Proof.Machine

/-! ### One node of a program -/

@[simp] theorem Prog.run_finish (c : Code) (s : State) : (Prog.finish c).run s = Machine.finish c s := rfl
@[simp] theorem Prog.run_done (s : State) : Prog.done.run s = s := rfl
@[simp] theorem Prog.run_select (next : Prog) (s : State) :
    (Prog.select next).run s = next.run (Machine.select s) := rfl
@[simp] theorem Prog.run_deselect (next : Prog) (s : State) :
    (Prog.deselect next).run s = next.run (Machine.deselect s) := rfl
@[simp] theorem Prog.run_write (b : Byte) (next : Prog) (s : State) :
    (Prog.write b next).run s = next.run (spiWrite b s) := rfl
@[simp] theorem Prog.run_read (next : Byte → Prog) (s : State) :
    (Prog.read next).run s = (next (deviceByte s)).run (spiRead s) := by
  rw [← spiReadValue_eq]
  rfl
@[simp] theorem Prog.run_delay (n : Nat) (next : Prog) (s : State) :
    (Prog.delay n next).run s = next.run (Machine.delay n s) := rfl
@[simp] theorem Prog.run_ready (v : Byte) (next : Prog) (s : State) :
    (Prog.ready v next).run s = next.run (setReady v s) := rfl
@[simp] theorem Prog.run_eng (e : Eng) (next : Prog) (s : State) :
    (Prog.eng e next).run s = next.run (setEng e s) := rfl
@[simp] theorem Prog.run_rdata (b : Byte) (next : Prog) (s : State) :
    (Prog.rdata b next).run s = next.run (setRdata b s) := rfl
@[simp] theorem Prog.run_rxinfo (d : Decoded) (next : Prog) (s : State) :
    (Prog.rxinfo d next).run s = next.run (setRxinfo d s) := rfl
@[simp] theorem Prog.run_store (i : Nat) (b : Byte) (next : Prog) (s : State) :
    (Prog.store i b next).run s = next.run (bufStore i b s) := rfl
@[simp] theorem Prog.run_load (i : Nat) (next : Byte → Prog) (s : State) :
    (Prog.load i next).run s = (next (bufByte s i)).run s := rfl

/-! ### Stretches on the wire -/

/-- From `s` to `t` the events `es` happened and nothing but the pins, their records and the script changed. -/
structure Wired (s t : State) (es : List Event) : Prop where
  traffic : Traffic s t es
  kept : CoreKept s t

theorem Wired.refl (s : State) : Wired s s [] := ⟨.refl s, .refl s⟩

theorem Wired.trans {s t u : State} {es fs : List Event} (h : Wired s t es) (k : Wired t u fs) :
    Wired s u (es ++ fs) := ⟨h.traffic.trans k.traffic, h.kept.trans k.kept⟩

theorem wired_select (s : State) : Wired s (select s) [.sel] := ⟨traffic_select s, coreKept_select s⟩
theorem wired_deselect (s : State) : Wired s (deselect s) [.dsl] := ⟨traffic_deselect s, coreKept_deselect s⟩
theorem wired_delay (n : Nat) (s : State) : Wired s (delay n s) [.d n] := ⟨traffic_delay n s, coreKept_delay n s⟩
theorem wired_spiWrite (b : Byte) (s : State) : Wired s (spiWrite b s) [.w b] :=
  ⟨traffic_spiWrite b s, coreKept_spiWrite b s⟩
theorem wired_spiRead (s : State) : Wired s (spiRead s) [.r (deviceByte s)] :=
  ⟨traffic_spiRead s, coreKept_spiRead s⟩

/-- Several bytes written one after the other. -/
def spiWrites (bs : List Byte) (s : State) : State := bs.foldl (fun s b => spiWrite b s) s

theorem wired_spiWrites (bs : List Byte) (s : State) : Wired s (spiWrites bs s) (bs.map .w) := by
  induction bs generalizing s with
  | nil => exact .refl s
  | cons b bs ih => exact (wired_spiWrite b s).trans (ih _)

theorem spiWrites_append (p q : List Byte) (s : State) :
    spiWrites (p ++ q) s = spiWrites q (spiWrites p s) := by
  simp [spiWrites, List.foldl_append]

@[simp] theorem Prog.run_writes (bs : List Byte) (next : Prog) (s : State) :
    (Prog.writes bs next).run s = next.run (spiWrites bs s) := by
  induction bs generalizing s with
  | nil => rfl
  | cons b bs ih => simp [Prog.writes, ih, spiWrites]

/-- The next `n` bytes the device drives when nothing is written in between. -/
def nextBytes : Nat → State → List Byte
  | 0, _ => []
  | n + 1, s => deviceByte s :: nextBytes n (spiRead s)

/-- Several bytes read one after the other. -/
def spiReads : Nat → State → State
  | 0, s => s
  | n + 1, s => spiReads n (spiRead s)

@[simp] theorem nextBytes_length (n : Nat) (s : State) : (nextBytes n s).length = n := by
  induction n generalizing s with
  | zero => rfl
  | succ n ih => simp [nextBytes, ih]

theorem wired_spiReads (n : Nat) (s : State) : Wired s (spiReads n s) ((nextBytes n s).map .r) := by
  induction n generalizing s with
  | zero => exact .refl s
  | succ n ih => exact (wired_spiRead s).trans (ih _)

/-- Where the script holds at least `n` bytes, they are the ones read. -/
theorem nextBytes_of_script (bs later : List Byte) (s : State) (h : s.dev = bs ++ later) :
    nextBytes bs.length s = bs := by
  induction bs generalizing s with
  | nil => rfl
  | cons b bs ih =>
    have h1 : deviceByte s = b := by simp [deviceByte, h]
    have h2 : (spiRead s).dev = bs ++ later := by rw [spiRead_eq]; simp [h]
    simp [nextBytes, h1, ih _ h2]

@[simp] theorem Prog.run_reads (n : Nat) (next : List Byte → Prog) (s : State) :
    (Prog.reads n next).run s = (next (nextBytes n s)).run (spiReads n s) := by
  induction n generalizing s next with
  | zero => rfl
  | succ n ih => simp [Prog.reads, ih, nextBytes, spiReads]

@[simp] theorem bufBytes_length (s : State) (i n : Nat) : (bufBytes s i n).length = n := by
  induction n generalizing i with
  | zero => rfl
  | succ n ih => simp [bufBytes, ih]

@[simp] theorem Prog.run_loads (i n : Nat) (next : List Byte → Prog) (s : State) :
    (Prog.loads i n next).run s = (next (bufBytes s i n)).run s := by
  induction n generalizing i next with
  | zero => rfl
  | succ n ih => simp [Prog.loads, ih, bufBytes]

/-! ### The codec's and the engine's procedures -/

/-- The payload loop sends the staged bytes and ends with their checksum. -/
theorem run_sendPayload (i n : Nat) (sum : Byte) (next : Byte → Prog) (s : State) :
    (sendPayload i n sum next).run s =
      (next (sum + sum8 (bufBytes s i n))).run (spiWrites (bufBytes s i n) s) := by
  induction n generalizing i sum s with
  | zero => simp [sendPayload, bufBytes, spiWrites]
  | succ n ih =>
    simp [sendPayload, bufBytes, ih, (coreKept_spiWrite (bufByte s i) s).bufBytes, spiWrites, BitVec.add_assoc]

/-- One frame-write transaction. -/
def sendFrame (p : Config.Params) (bytes : List Byte) (s : State) : State :=
  deselect (spiWrites (p.txPrefix ++ bytes) (select s))

theorem wired_sendFrame (p : Config.Params) (bytes : List Byte) (s : State) :
    Wired s (sendFrame p bytes s) (frameWrite p bytes) :=
  ((wired_select s).trans (wired_spiWrites _ _)).trans (wired_deselect _)

/-- `TxFrame` sends the frame of the staged bytes and nothing else. -/
theorem run_txFrame (p : Config.Params) (d : Byte) (len : Nat) (next : Prog) (s : State) :
    (txFrame p d len next).run s = next.run (sendFrame p (frame d (bufBytes s 0 len)) s) := by
  have hb : ∀ t, CoreKept s t → bufBytes t 0 len = bufBytes s 0 len := fun t h => h.bufBytes 0 len
  have hk : CoreKept s (spiWrite d (spiWrite (neg8 (lenByte len)) (spiWrite (lenByte len)
      (spiWrites startBytes (spiWrites p.txPrefix (select s)))))) :=
    (coreKept_select s).trans <| (wired_spiWrites _ _).kept.trans <| (wired_spiWrites _ _).kept.trans <|
      (coreKept_spiWrite _ _).trans <| (coreKept_spiWrite _ _).trans (coreKept_spiWrite _ _)
  simp only [txFrame, Prog.run_select, Prog.run_writes, Prog.run_write, run_sendPayload, Prog.run_deselect, hb _ hk,
    sendFrame, frame, spiWrites_append, bufBytes_length]
  simp [spiWrites]

/-- The byte a status poll with request `q` reads. -/
def pollValue (q : Byte) (s : State) : Byte := deviceByte (spiWrite q (select s))

/-- The pins after a status poll with request `q`. -/
def pollDone (q : Byte) (s : State) : State := deselect (spiRead (spiWrite q (select s)))

theorem wired_pollDone (q : Byte) (s : State) : Wired s (pollDone q s) (pollExchange q (pollValue q s)) :=
  (((wired_select s).trans (wired_spiWrite q _)).trans (wired_spiRead _)).trans (wired_deselect _)

@[simp] theorem run_statusPollWith (q : Byte) (next : Byte → Prog) (s : State) :
    (statusPollWith q next).run s = (next (pollValue q s)).run (setReady (pollValue q s) (pollDone q s)) := by
  simp [statusPollWith, pollValue, pollDone]

/-- The pins after the prefix of a read transaction. -/
def readBegun (p : Config.Params) (s : State) : State := spiWrites p.rxPrefix (select s)

theorem wired_readBegun (p : Config.Params) (s : State) :
    Wired s (readBegun p s) ([.sel] ++ p.rxPrefix.map .w) :=
  (wired_select s).trans (wired_spiWrites _ _)

/-- The bytes a read transaction of `n` bytes reads. -/
def readBytes (p : Config.Params) (n : Nat) (s : State) : List Byte := nextBytes n (readBegun p s)

/-- The pins after a read transaction of `n` bytes that go nowhere. -/
def readDone (p : Config.Params) (n : Nat) (s : State) : State := deselect (spiReads n (readBegun p s))

@[simp] theorem readBytes_length (p : Config.Params) (n : Nat) (s : State) : (readBytes p n s).length = n := by
  simp [readBytes]

theorem wired_readDone (p : Config.Params) (n : Nat) (s : State) :
    Wired s (readDone p n s) (bytesRead p (readBytes p n s)) :=
  ((wired_readBegun p s).trans (wired_spiReads n _)).trans (wired_deselect _)

/-- `ReadAck` reads six bytes in one transaction and compares them. -/
@[simp] theorem run_readAck (p : Config.Params) (next : Bool → Prog) (s : State) :
    (readAck p next).run s = (next (isAck (readBytes p 6 s))).run (readDone p 6 s) := by
  simp [readAck, readBytes, readDone, readBegun, ackBytes]

/-- BUF with bytes stored from an index on. -/
def storeBytes : Nat → List Byte → State → State
  | _, [], s => s
  | i, b :: bs, s => storeBytes (i + 1) bs (bufStore i b s)

@[simp] theorem storeBytes_spiRead (i : Nat) (bs : List Byte) (s : State) :
    spiRead (storeBytes i bs s) = storeBytes i bs (spiRead s) := by
  induction bs generalizing i s with
  | nil => rfl
  | cons b bs ih => simp only [storeBytes, ih]; rw [spiRead_eq, spiRead_eq]; rfl

@[simp] theorem storeBytes_deselect (i : Nat) (bs : List Byte) (s : State) :
    deselect (storeBytes i bs s) = storeBytes i bs (deselect s) := by
  induction bs generalizing i s with
  | nil => rfl
  | cons b bs ih => simp only [storeBytes, ih]; rfl

theorem nextBytes_bufStore (n i : Nat) (b : Byte) (s : State) :
    nextBytes n (bufStore i b s) = nextBytes n s := by
  induction n generalizing s with
  | zero => rfl
  | succ n ih =>
    have h : spiRead (bufStore i b s) = bufStore i b (spiRead s) := by rw [spiRead_eq, spiRead_eq]; rfl
    simp only [nextBytes, h, ih]
    rfl

theorem spiReads_bufStore (n i : Nat) (b : Byte) (s : State) :
    spiReads n (bufStore i b s) = bufStore i b (spiReads n s) := by
  induction n generalizing s with
  | zero => rfl
  | succ n ih =>
    have h : spiRead (bufStore i b s) = bufStore i b (spiRead s) := by rw [spiRead_eq, spiRead_eq]; rfl
    simp only [spiReads, h, ih]

theorem run_readInto (i n : Nat) (next : Prog) (s : State) :
    (readInto i n next).run s = next.run (storeBytes i (nextBytes n s) (spiReads n s)) := by
  induction n generalizing i s with
  | zero => rfl
  | succ n ih => simp [readInto, ih, nextBytes, spiReads, storeBytes, nextBytes_bufStore, spiReads_bufStore]

/-- `RawRead(n)` reads `n` bytes in one transaction and stores them at BUF[0 ..]. -/
@[simp] theorem run_rawRead (p : Config.Params) (n : Nat) (next : Prog) (s : State) :
    (rawRead p n next).run s = next.run (storeBytes 0 (readBytes p n s) (readDone p n s)) := by
  simp [rawRead, run_readInto, readBytes, readDone, readBegun]

/-- Storing bytes changes BUF and nothing else. -/
theorem storeBytes_eq (i : Nat) (bs : List Byte) (s : State) :
    storeBytes i bs s = { s with buf := (storeBytes i bs s).buf } := by
  induction bs generalizing i s with
  | nil => rfl
  | cons b bs ih =>
    simp only [storeBytes]
    rw [ih]
    rfl

@[simp] theorem storeBytes_par (i : Nat) (bs : List Byte) (s : State) : (storeBytes i bs s).par = s.par := by rw [storeBytes_eq]
@[simp] theorem storeBytes_ss (i : Nat) (bs : List Byte) (s : State) : (storeBytes i bs s).ss = s.ss := by rw [storeBytes_eq]
@[simp] theorem storeBytes_sck (i : Nat) (bs : List Byte) (s : State) : (storeBytes i bs s).sck = s.sck := by rw [storeBytes_eq]
@[simp] theorem storeBytes_mosi (i : Nat) (bs : List Byte) (s : State) : (storeBytes i bs s).mosi = s.mosi := by rw [storeBytes_eq]
@[simp] theorem storeBytes_busy (i : Nat) (bs : List Byte) (s : State) : (storeBytes i bs s).busy = s.busy := by rw [storeBytes_eq]
@[simp] theorem storeBytes_ready (i : Nat) (bs : List Byte) (s : State) : (storeBytes i bs s).ready = s.ready := by rw [storeBytes_eq]
@[simp] theorem storeBytes_ovr (i : Nat) (bs : List Byte) (s : State) : (storeBytes i bs s).ovr = s.ovr := by rw [storeBytes_eq]
@[simp] theorem storeBytes_eng (i : Nat) (bs : List Byte) (s : State) : (storeBytes i bs s).eng = s.eng := by rw [storeBytes_eq]
@[simp] theorem storeBytes_result (i : Nat) (bs : List Byte) (s : State) : (storeBytes i bs s).result = s.result := by rw [storeBytes_eq]
@[simp] theorem storeBytes_rdata (i : Nat) (bs : List Byte) (s : State) : (storeBytes i bs s).rdata = s.rdata := by rw [storeBytes_eq]
@[simp] theorem storeBytes_rxDir (i : Nat) (bs : List Byte) (s : State) : (storeBytes i bs s).rxDir = s.rxDir := by rw [storeBytes_eq]
@[simp] theorem storeBytes_rxLen (i : Nat) (bs : List Byte) (s : State) : (storeBytes i bs s).rxLen = s.rxLen := by rw [storeBytes_eq]
@[simp] theorem storeBytes_rxValid (i : Nat) (bs : List Byte) (s : State) : (storeBytes i bs s).rxValid = s.rxValid := by rw [storeBytes_eq]
@[simp] theorem storeBytes_trace (i : Nat) (bs : List Byte) (s : State) : (storeBytes i bs s).trace = s.trace := by rw [storeBytes_eq]
@[simp] theorem storeBytes_wave (i : Nat) (bs : List Byte) (s : State) : (storeBytes i bs s).wave = s.wave := by rw [storeBytes_eq]
@[simp] theorem storeBytes_dev (i : Nat) (bs : List Byte) (s : State) : (storeBytes i bs s).dev = s.dev := by rw [storeBytes_eq]
@[simp] theorem storeBytes_host (i : Nat) (bs : List Byte) (s : State) : (storeBytes i bs s).host = s.host := by rw [storeBytes_eq]
@[simp] theorem storeBytes_answers (i : Nat) (bs : List Byte) (s : State) : (storeBytes i bs s).answers = s.answers := by rw [storeBytes_eq]
@[simp] theorem storeBytes_draw (i : Nat) (bs : List Byte) (s : State) : (storeBytes i bs s).draw = s.draw := by rw [storeBytes_eq]

/-- What BUF reads after bytes were stored: the bytes where they went, the old bytes elsewhere. -/
theorem get?_storeBytes (i : Nat) (bs : List Byte) (s : State) (j : Nat) :
    (storeBytes i bs s).buf.get? j = if i ≤ j ∧ j < i + bs.length then bs[j - i]? else s.buf.get? j := by
  induction bs generalizing i s with
  | nil => simp [storeBytes]
  | cons b bs ih =>
    simp only [storeBytes, ih, bufStore_buf, List.length_cons]
    by_cases h1 : j = i
    · subst h1
      simp [show ¬ (j + 1 ≤ j) by omega]
    · rw [Memory.get?_set_ne _ _ h1]
      by_cases h2 : i + 1 ≤ j ∧ j < i + 1 + bs.length
      · have h3 : i ≤ j ∧ j < i + (bs.length + 1) := by omega
        have h4 : j - i = (j - (i + 1)) + 1 := by omega
        simp [h2, h3, h4]
      · have h3 : ¬ (i ≤ j ∧ j < i + (bs.length + 1)) := by omega
        rw [if_neg h2, if_neg h3]

theorem bufBytes_eq_of_get? (s : State) (bs : List Byte) (i : Nat)
    (h : ∀ k, k < bs.length → s.buf.get? (i + k) = bs[k]?) : bufBytes s i bs.length = bs := by
  induction bs generalizing i with
  | nil => rfl
  | cons b bs ih =>
    have h0 := h 0 (by simp)
    have hr : ∀ k, k < bs.length → s.buf.get? (i + 1 + k) = bs[k]? := fun k hk => by
      have := h (k + 1) (by simpa using hk)
      simpa [Nat.add_assoc, Nat.add_comm 1 k] using this
    simp only [List.length_cons, bufBytes, ih _ hr]
    simp only [Nat.add_zero, List.getElem?_cons_zero] at h0
    simp [bufByte, h0]

/-- Bytes just stored are the bytes BUF holds. -/
theorem bufBytes_storeBytes (bs : List Byte) (s : State) : bufBytes (storeBytes 0 bs s) 0 bs.length = bs := by
  refine bufBytes_eq_of_get? _ _ _ fun k hk => ?_
  rw [get?_storeBytes]
  simp [hk]

/-- The decode of BUF writes RXINFO and finishes with the decode's code. -/
@[simp] theorem run_decodeBuf (n : Nat) (s : State) :
    (decodeBuf n).run s =
      finish (decodeFrame (bufBytes s 0 n)).code (setRxinfo (decodeFrame (bufBytes s 0 n)) s) := by
  simp [decodeBuf]

/-- An operation that only moves events and finishes changes nothing else. -/
theorem Moved.of_wired {c : Code} {s t : State} {es : List Event} (h : Wired s t es) : Moved c s (finish c t) es where
  finished := ⟨rfl, rfl, by simp [h.kept.draw]⟩
  traffic := h.traffic.of_fields rfl rfl rfl rfl rfl rfl rfl
  hostSide := ⟨h.kept.ovr, h.kept.host, h.kept.answers⟩
  rxinfo := ⟨h.kept.rxDir, h.kept.rxLen, h.kept.rxValid⟩
  buf := fun _ => by simp [h.kept.buf]
  eng := h.kept.eng
  ready := h.kept.ready
  rdata := h.kept.rdata

/-- `finish` at once is an operation turned away. -/
theorem turnedAway_finish (c : Code) (s : State) : TurnedAway c s (finish c s) := .of_wired (.refl s)

/-! ### The wait -/

/-- What a wait does: it polls, with one delay between two polls, and answers whether the last poll read 0x01. Only
the pins and READY change. -/
structure Waited (s t : State) (q : Byte) (T : Nat) (ready : Bool) (vs : List Byte) : Prop where
  traffic : Traffic s t (waitPolls q vs)
  kept : CoreKept { s with ready := ready } t
  answers : if ready then ReadyAnswers T vs else TimeoutAnswers T vs

theorem isReady_iff (v : Byte) : isReady v = true ↔ v = 0x01 := by simp [isReady, Config.readyValue]

/-- The loop of the wait from `elapsed = 10 * k` on, with as much fuel as polls are left. -/
theorem run_waitLoop (p : Config.Params) (T k fuel : Nat) (hf : k + fuel = T / 10) (s : State) :
    ∃ t ready vs, (∀ next, (waitLoop p T (fuel + 1) (10 * k) next).run s = (next ready).run t) ∧
      Traffic s t (waitPolls p.statusReq vs) ∧ CoreKept { s with ready := ready } t ∧
      (if ready then ∃ early, vs = early ++ [0x01] ∧ (∀ v ∈ early, v ≠ 0x01) ∧ vs.length ≤ fuel + 1
        else (∀ v ∈ vs, v ≠ 0x01) ∧ vs.length = fuel + 1) := by
  induction fuel generalizing k s with
  | zero =>
    have hT : 10 * k + 10 > T := by omega
    have hw := wired_pollDone p.statusReq s
    refine ⟨setReady (pollValue p.statusReq s) (pollDone p.statusReq s), isReady (pollValue p.statusReq s),
      [pollValue p.statusReq s], ?_, ?_, ?_, ?_⟩
    · intro next
      simp only [waitLoop, statusPoll, run_statusPollWith, Config.pollInterval, hT, if_true]
      cases isReady (pollValue p.statusReq s) <;> rfl
    · exact hw.traffic.of_fields rfl rfl rfl rfl rfl rfl rfl
    · obtain ⟨_, hk⟩ := hw
      constructor <;> simp [hk.busy, hk.ovr, hk.eng, hk.result, hk.rdata, hk.rxDir, hk.rxLen, hk.rxValid, hk.buf,
        hk.host, hk.answers, hk.draw]
    · cases h : isReady (pollValue p.statusReq s) with
      | true => exact ⟨[], by simpa using (isReady_iff _).1 h, by simp, by simp⟩
      | false =>
        have : pollValue p.statusReq s ≠ 0x01 := fun hv => by simp [(isReady_iff _).2 hv] at h
        simpa using this
  | succ fuel ih =>
    have hT : ¬ 10 * k + 10 > T := by omega
    have hw := wired_pollDone p.statusReq s
    cases h : isReady (pollValue p.statusReq s) with
    | true =>
      refine ⟨setReady (pollValue p.statusReq s) (pollDone p.statusReq s), true, [pollValue p.statusReq s], ?_, ?_, ?_,
        ?_⟩
      · intro next
        simp only [waitLoop, statusPoll, run_statusPollWith, h, if_true]
      · exact hw.traffic.of_fields rfl rfl rfl rfl rfl rfl rfl
      · obtain ⟨_, hk⟩ := hw
        constructor <;> simp [h, hk.busy, hk.ovr, hk.eng, hk.result, hk.rdata, hk.rxDir, hk.rxLen, hk.rxValid, hk.buf,
          hk.host, hk.answers, hk.draw]
      · exact ⟨[], by simpa using (isReady_iff _).1 h, by simp, by simp⟩
    | false =>
      obtain ⟨t, ready, vs, hrun, htr, hk, ha⟩ := ih (k + 1) (by omega)
        (delay 10 (setReady (pollValue p.statusReq s) (pollDone p.statusReq s)))
      have hv : pollValue p.statusReq s ≠ 0x01 := fun hv => by simp [(isReady_iff _).2 hv] at h
      have hne : vs ≠ [] := by
        rintro rfl
        cases ready <;> simp at ha
      refine ⟨t, ready, pollValue p.statusReq s :: vs, ?_, ?_, ?_, ?_⟩
      · intro next
        rw [waitLoop]
        simp only [statusPoll, run_statusPollWith, h, Config.pollInterval, hT, if_false, Prog.run_delay,
          Bool.false_eq_true]
        simpa [Nat.mul_add] using hrun next
      · obtain ⟨w, ws, rfl⟩ := List.exists_cons_of_ne_nil hne
        have h1 : Traffic s (setReady (pollValue p.statusReq s) (pollDone p.statusReq s)) _ :=
          hw.traffic.of_fields rfl rfl rfl rfl rfl rfl rfl
        exact (h1.trans (traffic_delay 10 _)).trans htr
      · obtain ⟨_, hkp⟩ := hw
        constructor <;> simp [hk.busy, hk.ready, hk.ovr, hk.eng, hk.result, hk.rdata, hk.rxDir, hk.rxLen, hk.rxValid,
          hk.buf, hk.host, hk.answers, hk.draw, hkp.busy, hkp.ovr, hkp.eng, hkp.result, hkp.rdata, hkp.rxDir,
          hkp.rxLen, hkp.rxValid, hkp.buf, hkp.host, hkp.answers, hkp.draw]
      · cases ready with
        | true =>
          obtain ⟨early, rfl, he, hl⟩ := ha
          exact ⟨pollValue p.statusReq s :: early, rfl, by simpa using ⟨hv, he⟩, by simpa using hl⟩
        | false =>
          obtain ⟨he, hl⟩ := ha
          exact ⟨by simpa using ⟨hv, he⟩, by simpa using hl⟩

/-- `WaitReady(T)`: everything it can do. -/
theorem run_waitReady (p : Config.Params) (T : Nat) (s : State) :
    ∃ t ready vs, (∀ next, (waitReady p T next).run s = (next ready).run t) ∧ Waited s t p.statusReq T ready vs := by
  obtain ⟨t, ready, vs, hrun, htr, hk, ha⟩ := run_waitLoop p T 0 (T / 10) (by omega) s
  exact ⟨t, ready, vs, fun next => by simpa [waitReady, Config.pollInterval] using hrun next, htr, hk, ha⟩

/-- The loop equation of the rule (spec/42_protocol_engine R144). -/
theorem waitLoop_succ (p : Config.Params) (T fuel elapsed : Nat) (next : Bool → Prog) :
    waitLoop p T (fuel + 1) elapsed next = statusPoll p fun v =>
      if isReady v then next true
      else if elapsed + 10 > T then next false
      else .delay 10 (waitLoop p T fuel (elapsed + 10) next) := rfl

/-- The fuel of the wait changes nothing once it covers the budget: the loop is never cut short. -/
theorem waitLoop_fuel (p : Config.Params) (T elapsed fuel : Nat) (next : Bool → Prog)
    (h : T < elapsed + 10 * (fuel + 1)) :
    waitLoop p T (fuel + 1) elapsed next = waitLoop p T (fuel + 2) elapsed next := by
  induction fuel generalizing elapsed with
  | zero =>
    have hT : elapsed + 10 > T := by omega
    rw [waitLoop_succ, waitLoop_succ p T (0 + 1)]
    simp only [hT, if_true]
  | succ fuel ih =>
    rw [waitLoop_succ, waitLoop_succ p T (fuel + 1 + 1)]
    by_cases hT : elapsed + 10 > T
    · simp only [hT, if_true]
    · rw [ih (elapsed + 10) (by omega)]

/-! ### What every program keeps -/

/-- No program changes the parameters, OVR, the host's queue or the record of its reads. -/
theorem Prog.run_hostSide (pr : Prog) (s : State) : HostSideKept s (pr.run s) ∧ (pr.run s).par = s.par := by
  have step : ∀ {s t u : State}, HostSideKept s t ∧ t.par = s.par → HostSideKept t u ∧ u.par = t.par →
      HostSideKept s u ∧ u.par = s.par := fun h k =>
    ⟨⟨k.1.ovr.trans h.1.ovr, k.1.host.trans h.1.host, k.1.answers.trans h.1.answers⟩, k.2.trans h.2⟩
  have wired : ∀ {s t : State} {es}, Wired s t es → HostSideKept s t ∧ t.par = s.par := fun h =>
    ⟨⟨h.kept.ovr, h.kept.host, h.kept.answers⟩, h.traffic.par⟩
  induction pr generalizing s with
  | finish c => exact ⟨⟨rfl, rfl, rfl⟩, rfl⟩
  | done => exact ⟨⟨rfl, rfl, rfl⟩, rfl⟩
  | select next ih => exact step (wired (wired_select s)) (ih _)
  | deselect next ih => exact step (wired (wired_deselect s)) (ih _)
  | write b next ih => exact step (wired (wired_spiWrite b s)) (ih _)
  | read next ih => rw [Prog.run_read]; exact step (wired (wired_spiRead s)) (ih _ _)
  | delay n next ih => exact step (wired (wired_delay n s)) (ih _)
  | ready v next ih => exact step (t := setReady v s) ⟨⟨rfl, rfl, rfl⟩, rfl⟩ (ih _)
  | eng e next ih => exact step (t := setEng e s) ⟨⟨rfl, rfl, rfl⟩, rfl⟩ (ih _)
  | rdata b next ih => exact step (t := setRdata b s) ⟨⟨rfl, rfl, rfl⟩, rfl⟩ (ih _)
  | rxinfo d next ih => exact step ⟨⟨by simp, by simp, by simp⟩, by simp⟩ (ih (setRxinfo d s))
  | store i b next ih => exact step (t := bufStore i b s) ⟨⟨rfl, rfl, rfl⟩, rfl⟩ (ih _)
  | load i next ih => exact ih _ s

/-- Whatever a program does, the pins, their record and the bytes read are those of the trace events it makes. -/
theorem Prog.run_traffic (pr : Prog) (s : State) : ∃ es, Traffic s (pr.run s) es := by
  induction pr generalizing s with
  | finish c => exact ⟨[], (Traffic.refl s).of_fields rfl rfl rfl rfl rfl rfl rfl⟩
  | done => exact ⟨[], .refl s⟩
  | select next ih => obtain ⟨es, h⟩ := ih (Machine.select s); exact ⟨_, (traffic_select s).trans h⟩
  | deselect next ih => obtain ⟨es, h⟩ := ih (Machine.deselect s); exact ⟨_, (traffic_deselect s).trans h⟩
  | write b next ih => obtain ⟨es, h⟩ := ih (spiWrite b s); exact ⟨_, (traffic_spiWrite b s).trans h⟩
  | read next ih =>
    obtain ⟨es, h⟩ := ih (deviceByte s) (spiRead s)
    rw [Prog.run_read]
    exact ⟨_, (traffic_spiRead s).trans h⟩
  | delay n next ih => obtain ⟨es, h⟩ := ih (Machine.delay n s); exact ⟨_, (traffic_delay n s).trans h⟩
  | ready v next ih =>
    obtain ⟨es, h⟩ := ih (setReady v s)
    exact ⟨_, Traffic.trans (t := setReady v s) ((Traffic.refl s).of_fields rfl rfl rfl rfl rfl rfl rfl) h⟩
  | eng e next ih =>
    obtain ⟨es, h⟩ := ih (setEng e s)
    exact ⟨_, Traffic.trans (t := setEng e s) ((Traffic.refl s).of_fields rfl rfl rfl rfl rfl rfl rfl) h⟩
  | rdata b next ih =>
    obtain ⟨es, h⟩ := ih (setRdata b s)
    exact ⟨_, Traffic.trans (t := setRdata b s) ((Traffic.refl s).of_fields rfl rfl rfl rfl rfl rfl rfl) h⟩
  | rxinfo d next ih =>
    obtain ⟨es, h⟩ := ih (setRxinfo d s)
    exact ⟨_, ((Traffic.refl s).of_fields (by simp) (by simp) (by simp) (by simp) (by simp) (by simp)
      (by simp)).trans h⟩
  | store i b next ih =>
    obtain ⟨es, h⟩ := ih (bufStore i b s)
    exact ⟨_, Traffic.trans (t := bufStore i b s) ((Traffic.refl s).of_fields rfl rfl rfl rfl rfl rfl rfl) h⟩
  | load i next ih => exact ih _ s

/-- Every program keeps BUF in canonical form. -/
theorem Prog.run_bufWf (pr : Prog) (s : State) (h : s.buf.wf = true) : (pr.run s).buf.wf = true := by
  induction pr generalizing s with
  | finish c => exact h
  | done => exact h
  | select next ih => exact ih _ h
  | deselect next ih => exact ih _ h
  | write b next ih => exact ih _ (by rw [(coreKept_spiWrite b s).buf]; exact h)
  | read next ih => rw [Prog.run_read]; exact ih _ _ (by rw [(coreKept_spiRead s).buf]; exact h)
  | delay n next ih => exact ih _ h
  | ready v next ih => exact ih _ h
  | eng e next ih => exact ih _ h
  | rdata b next ih => exact ih _ h
  | rxinfo d next ih => exact ih _ (by simpa using h)
  | store i b next ih => exact ih _ (Memory.wf_set _ _ _ h)
  | load i next ih => exact ih _ s h

/-- A program that was run for some events and then to its end did what it does in one go. -/
theorem Prog.advance_run (pr : Prog) (k : Nat) (s : State) :
    (match pr.advance k s with
      | (t, none) => t
      | (t, some rest) => rest.run t) = pr.run s := by
  induction pr generalizing k s with
  | finish c => cases k <;> rfl
  | done => cases k <;> rfl
  | select next ih => cases k with | zero => rfl | succ k => exact ih k _
  | deselect next ih => cases k with | zero => rfl | succ k => exact ih k _
  | write b next ih => cases k with | zero => rfl | succ k => exact ih k _
  | read next ih => cases k with | zero => rfl | succ k => exact ih _ k _
  | delay n next ih => cases k with | zero => rfl | succ k => exact ih k _
  | ready v next ih => cases k <;> exact ih _ _
  | eng e next ih => cases k <;> exact ih _ _
  | rdata b next ih => cases k <;> exact ih _ _
  | rxinfo d next ih => cases k <;> exact ih _ _
  | store i b next ih => cases k <;> exact ih _ _
  | load i next ih => cases k <;> exact ih _ _ _

/-- `exec` of a command word's instruction runs its program to the end. -/
theorem exec_eq_run (i : Instr) (s : State) (h : isWireFormat i = false) :
    exec i s = .next ((program i s.par).run s) := by
  cases i <;> first | rfl | simp [isWireFormat] at h

end Sys2Proof.Machine
end

