-- ==== Sys2Proof/Laws/Host.lean ====
section
/-! SUPPORT. What a program does not look at, what it does in a given number of events, and what an operation does
with the host beside it. -/

namespace Sys2Proof.Machine

/-! ### The platform's parameters -/

theorem delayTime_append (p : Config.Params) (es fs : List Event) :
    delayTime p (es ++ fs) = delayTime p es + delayTime p fs := by
  induction es with
  | nil => simp [delayTime]
  | cons e es ih => cases e <;> simp [delayTime, ih, Nat.add_assoc]

/-- With a stride that is not zero the four registers have four addresses. -/
theorem Reg.address_inj (p : Config.Params) (h : p.hostStride ≠ 0) {q r : Reg} (e : q.address p = r.address p) :
    q = r := by
  have h1 := Nat.eq_of_mul_eq_mul_left (Nat.pos_of_ne_zero h) (Nat.add_left_cancel e)
  cases q <;> cases r <;> first | rfl | cases h1

/-! ### What no program looks at -/

/-- A state with another level of SS. -/
def withSs (level : Bool) (s : State) : State := { s with ss := level }

theorem spiWrite_withSs (level : Bool) (b : Byte) (s : State) :
    spiWrite b (withSs level s) = withSs level (spiWrite b s) := by rw [spiWrite_eq, spiWrite_eq]; rfl

theorem spiRead_withSs (level : Bool) (s : State) : spiRead (withSs level s) = withSs level (spiRead s) := by
  rw [spiRead_eq, spiRead_eq]; rfl

/-- The level of SS at the beginning of a program can show in its level at the end and nowhere else. -/
theorem Prog.run_withSs (pr : Prog) (level : Bool) (s : State) :
    ∃ last, pr.run (withSs level s) = withSs last (pr.run s) := by
  induction pr generalizing s level with
  | finish c => exact ⟨level, rfl⟩
  | done => exact ⟨level, rfl⟩
  | select next ih => exact ih false (Machine.select s)
  | deselect next ih => exact ih true (Machine.deselect s)
  | write b next ih => rw [Prog.run_write, spiWrite_withSs]; exact ih _ _
  | read next ih => rw [Prog.run_read, spiRead_withSs, Prog.run_read]; exact ih _ _ _
  | delay n next ih => exact ih level (Machine.delay n s)
  | ready v next ih => exact ih level (setReady v s)
  | eng e next ih => exact ih level (setEng e s)
  | rdata b next ih => exact ih level (setRdata b s)
  | rxinfo d next ih => have h := ih level (setRxinfo d s); cases d <;> exact h
  | store i b next ih => exact ih level (bufStore i b s)
  | load i next ih => exact ih _ level s

/-- A state with another host side: OVR, the record of reads, the queue. -/
def withHost (o : Bool) (a : List (Reg × Word)) (h : List HostAct) (s : State) : State :=
  { s with ovr := o, answers := a, host := h }

theorem spiWrite_withHost (o : Bool) (a : List (Reg × Word)) (h : List HostAct) (b : Byte) (s : State) :
    spiWrite b (withHost o a h s) = withHost o a h (spiWrite b s) := by rw [spiWrite_eq, spiWrite_eq]; rfl

theorem spiRead_withHost (o : Bool) (a : List (Reg × Word)) (h : List HostAct) (s : State) :
    spiRead (withHost o a h s) = withHost o a h (spiRead s) := by rw [spiRead_eq, spiRead_eq]; rfl

/-- A program does not look at the host side. -/
theorem Prog.run_withHost (pr : Prog) (o : Bool) (a : List (Reg × Word)) (h : List HostAct) (s : State) :
    pr.run (withHost o a h s) = withHost o a h (pr.run s) := by
  induction pr generalizing s with
  | finish c => rfl
  | done => rfl
  | select next ih => exact ih (Machine.select s)
  | deselect next ih => exact ih (Machine.deselect s)
  | write b next ih => rw [Prog.run_write, spiWrite_withHost]; exact ih _
  | read next ih => rw [Prog.run_read, spiRead_withHost, Prog.run_read]; exact ih _ _
  | delay n next ih => exact ih (Machine.delay n s)
  | ready v next ih => exact ih (setReady v s)
  | eng e next ih => exact ih (setEng e s)
  | rdata b next ih => exact ih (setRdata b s)
  | rxinfo d next ih => have h := ih (setRxinfo d s); cases d <;> exact h
  | store i b next ih => exact ih (bufStore i b s)
  | load i next ih => exact ih _ s

/-- A state with another BUSY. -/
def withBusy (b : Bool) (s : State) : State := { s with busy := b }

theorem spiWrite_withBusy (b : Bool) (c : Byte) (s : State) :
    spiWrite c (withBusy b s) = withBusy b (spiWrite c s) := by rw [spiWrite_eq, spiWrite_eq]; rfl

theorem spiRead_withBusy (b : Bool) (s : State) : spiRead (withBusy b s) = withBusy b (spiRead s) := by
  rw [spiRead_eq, spiRead_eq]; rfl

/-- A program does not look at BUSY. -/
theorem Prog.run_withBusy (pr : Prog) (b : Bool) (s : State) : ∃ c, pr.run (withBusy b s) = withBusy c (pr.run s) := by
  induction pr generalizing s with
  | finish c => exact ⟨false, rfl⟩
  | done => exact ⟨b, rfl⟩
  | select next ih => exact ih (Machine.select s)
  | deselect next ih => exact ih (Machine.deselect s)
  | write b next ih => rw [Prog.run_write, spiWrite_withBusy]; exact ih _
  | read next ih => rw [Prog.run_read, spiRead_withBusy, Prog.run_read]; exact ih _ _
  | delay n next ih => exact ih (Machine.delay n s)
  | ready v next ih => exact ih (setReady v s)
  | eng e next ih => exact ih (setEng e s)
  | rdata b next ih => exact ih (setRdata b s)
  | rxinfo d next ih => have h := ih (setRxinfo d s); cases d <;> exact h
  | store i b next ih => exact ih (bufStore i b s)
  | load i next ih => exact ih _ s

theorem spiWrite_onPlatform (x y z : Nat) (c : Byte) (s : State) :
    spiWrite c (onPlatform x y z s) = onPlatform x y z (spiWrite c s) := by rw [spiWrite_eq, spiWrite_eq]; rfl

theorem spiRead_onPlatform (x y z : Nat) (s : State) :
    spiRead (onPlatform x y z s) = onPlatform x y z (spiRead s) := by rw [spiRead_eq, spiRead_eq]; rfl

/-- A program does not look at TICK, HOST_BASE or HOST_STRIDE. -/
theorem Prog.run_onPlatform (pr : Prog) (x y z : Nat) (s : State) :
    pr.run (onPlatform x y z s) = onPlatform x y z (pr.run s) := by
  induction pr generalizing s with
  | finish c => rfl
  | done => rfl
  | select next ih => exact ih (Machine.select s)
  | deselect next ih => exact ih (Machine.deselect s)
  | write b next ih => rw [Prog.run_write, spiWrite_onPlatform]; exact ih _
  | read next ih => rw [Prog.run_read, spiRead_onPlatform, Prog.run_read]; exact ih _ _
  | delay n next ih => exact ih (Machine.delay n s)
  | ready v next ih => exact ih (setReady v s)
  | eng e next ih => exact ih (setEng e s)
  | rdata b next ih => exact ih (setRdata b s)
  | rxinfo d next ih => have h := ih (setRxinfo d s); cases d <;> exact h
  | store i b next ih => exact ih (bufStore i b s)
  | load i next ih => exact ih _ s

/-- What a program puts on the wire from an accepted command word on. -/
theorem Prog.run_accept_trace (pr : Prog) (later : List HostAct) (s : State) :
    (pr.run { s with host := later, busy := true }).trace = (pr.run s).trace := by
  obtain ⟨c, h⟩ := pr.run_withBusy true (withHost s.ovr s.answers later s)
  have e : ({ s with host := later, busy := true } : State) = withBusy true (withHost s.ovr s.answers later s) := rfl
  rw [e, h, Prog.run_withHost]
  rfl

/-- A command word is never a wire format. -/
theorem isWireFormat_decodeWord (w : Word) : isWireFormat (decodeWord w) = false := by
  simp only [decodeWord, apply_ite isWireFormat]
  simp [isWireFormat]

/-! ### A program run for some events -/

/-- What `advance` leaves as it was, so long as the program has not ended. -/
theorem Prog.advance_ovr (pr : Prog) (k : Nat) (s : State) : (pr.advance k s).1.ovr = s.ovr := by
  induction pr generalizing k s with
  | finish c => cases k <;> rfl
  | done => cases k <;> rfl
  | select next ih => cases k with | zero => rfl | succ k => exact ih k (Machine.select s)
  | deselect next ih => cases k with | zero => rfl | succ k => exact ih k (Machine.deselect s)
  | write b next ih =>
    cases k with | zero => rfl | succ k => exact (ih k (spiWrite b s)).trans (coreKept_spiWrite b s).ovr
  | read next ih =>
    cases k with | zero => rfl | succ k => exact (ih _ k (spiRead s)).trans (coreKept_spiRead s).ovr
  | delay n next ih => cases k with | zero => rfl | succ k => exact ih k (Machine.delay n s)
  | ready v next ih => exact ih k (setReady v s)
  | eng e next ih => exact ih k (setEng e s)
  | rdata b next ih => exact ih k (setRdata b s)
  | rxinfo d next ih => exact (ih k (setRxinfo d s)).trans (by simp)
  | store i b next ih => exact ih k (bufStore i b s)
  | load i next ih => exact ih _ k s

/-- The state a running operation shows after some of its events. -/
structure Seen (s t : State) (es : List Event) : Prop where
  traffic : Traffic s t es
  busy : t.busy = s.busy
  result : t.result = s.result
  answers : t.answers = s.answers
  host : t.host = s.host

theorem Seen.refl (s : State) : Seen s s [] := ⟨.refl s, rfl, rfl, rfl, rfl⟩

theorem Seen.trans {s t u : State} {es fs : List Event} (h : Seen s t es) (k : Seen t u fs) : Seen s u (es ++ fs) :=
  ⟨h.traffic.trans k.traffic, k.busy.trans h.busy, k.result.trans h.result, k.answers.trans h.answers,
    k.host.trans h.host⟩

theorem Wired.seen {s t : State} {es : List Event} (h : Wired s t es) : Seen s t es :=
  ⟨h.traffic, h.kept.busy, h.kept.result, h.kept.answers, h.kept.host⟩

/-- The first event of a program, and the rest. -/
theorem events_cons {s t : State} {e : Event} {es : List Event} {next : Prog} (h : Traffic s t [e])
    (hr : (next.run t).trace = s.trace ++ es) : ∃ fs, es = e :: fs ∧ (next.run t).trace = t.trace ++ fs := by
  obtain ⟨fs, hf⟩ := next.run_traffic t
  refine ⟨fs, ?_, hf.trace⟩
  have h1 := hf.trace
  rw [hr, h.trace, List.append_assoc] at h1
  exact List.append_cancel_left h1

/-- Run for no event, a program that begins with one has shown none. -/
theorem seen_zero (pr : Prog) (s : State) (es : List Event) :
    ∃ t rest, (s, some pr) = (t, some rest) ∧ Seen s t (es.take 0) := ⟨s, pr, rfl, by simpa using Seen.refl s⟩

/-- A program that makes the events `es` in all, run for `k` of them: the host finds it after exactly those `k`, the
program not over yet. -/
theorem Prog.advance_events (pr : Prog) (k : Nat) (s : State) (es : List Event)
    (h : (pr.run s).trace = s.trace ++ es) (hk : k ≤ es.length) :
    ∃ t rest, pr.advance k s = (t, some rest) ∧ Seen s t (es.take k) := by
  induction pr generalizing k s es with
  | finish c =>
    have : es = [] := by simpa using h
    subst this
    have : k = 0 := by simpa using hk
    subst this
    exact seen_zero _ _ _
  | done =>
    have : es = [] := by simpa using h
    subst this
    have : k = 0 := by simpa using hk
    subst this
    exact seen_zero _ _ _
  | select next ih =>
    cases k with
    | zero => exact seen_zero _ _ _
    | succ k =>
      obtain ⟨fs, rfl, h2⟩ := events_cons (traffic_select s) h
      obtain ⟨t, rest, he, hs⟩ := ih k _ fs h2 (by simpa using hk)
      exact ⟨t, rest, he, (wired_select s).seen.trans hs⟩
  | deselect next ih =>
    cases k with
    | zero => exact seen_zero _ _ _
    | succ k =>
      obtain ⟨fs, rfl, h2⟩ := events_cons (traffic_deselect s) h
      obtain ⟨t, rest, he, hs⟩ := ih k _ fs h2 (by simpa using hk)
      exact ⟨t, rest, he, (wired_deselect s).seen.trans hs⟩
  | write b next ih =>
    cases k with
    | zero => exact seen_zero _ _ _
    | succ k =>
      obtain ⟨fs, rfl, h2⟩ := events_cons (traffic_spiWrite b s) h
      obtain ⟨t, rest, he, hs⟩ := ih k _ fs h2 (by simpa using hk)
      exact ⟨t, rest, he, (wired_spiWrite b s).seen.trans hs⟩
  | read next ih =>
    cases k with
    | zero => exact seen_zero _ _ _
    | succ k =>
      rw [Prog.run_read] at h
      obtain ⟨fs, rfl, h2⟩ := events_cons (traffic_spiRead s) h
      obtain ⟨t, rest, he, hs⟩ := ih (deviceByte s) k _ fs h2 (by simpa using hk)
      rw [← spiReadValue_eq] at he
      exact ⟨t, rest, he, (wired_spiRead s).seen.trans hs⟩
  | delay n next ih =>
    cases k with
    | zero => exact seen_zero _ _ _
    | succ k =>
      obtain ⟨fs, rfl, h2⟩ := events_cons (traffic_delay n s) h
      obtain ⟨t, rest, he, hs⟩ := ih k _ fs h2 (by simpa using hk)
      exact ⟨t, rest, he, (wired_delay n s).seen.trans hs⟩
  | ready v next ih =>
    obtain ⟨t, rest, he, hs⟩ := ih k (setReady v s) es h hk
    exact ⟨t, rest, he, Seen.trans (t := setReady v s)
      ⟨(Traffic.refl s).of_fields rfl rfl rfl rfl rfl rfl rfl, rfl, rfl, rfl, rfl⟩ hs⟩
  | eng e next ih =>
    obtain ⟨t, rest, he, hs⟩ := ih k (setEng e s) es h hk
    exact ⟨t, rest, he, Seen.trans (t := setEng e s)
      ⟨(Traffic.refl s).of_fields rfl rfl rfl rfl rfl rfl rfl, rfl, rfl, rfl, rfl⟩ hs⟩
  | rdata b next ih =>
    obtain ⟨t, rest, he, hs⟩ := ih k (setRdata b s) es h hk
    exact ⟨t, rest, he, Seen.trans (t := setRdata b s)
      ⟨(Traffic.refl s).of_fields rfl rfl rfl rfl rfl rfl rfl, rfl, rfl, rfl, rfl⟩ hs⟩
  | rxinfo d next ih =>
    obtain ⟨t, rest, he, hs⟩ := ih k (setRxinfo d s) es (by simpa using h) hk
    exact ⟨t, rest, he, Seen.trans (t := setRxinfo d s)
      ⟨(Traffic.refl s).of_fields (by simp) (by simp) (by simp) (by simp) (by simp) (by simp) (by simp), by simp,
        by simp, by simp, by simp⟩ hs⟩
  | store i b next ih =>
    obtain ⟨t, rest, he, hs⟩ := ih k (bufStore i b s) es h hk
    exact ⟨t, rest, he, Seen.trans (t := bufStore i b s)
      ⟨(Traffic.refl s).of_fields rfl rfl rfl rfl rfl rfl rfl, rfl, rfl, rfl, rfl⟩ hs⟩
  | load i next ih =>
    exact ih _ k s es h hk

/-- Run for more events than it makes, the program has ended as it does alone. -/
theorem Prog.advance_end (pr : Prog) (k : Nat) (s : State) (es : List Event)
    (h : (pr.run s).trace = s.trace ++ es) (hk : es.length < k) : pr.advance k s = (pr.run s, none) := by
  have pos : ∀ {e : Event} {fs : List Event} {k : Nat}, (e :: fs).length < k → ∃ j, k = j + 1 ∧ fs.length < j :=
    fun {_ _ k} h => ⟨k - 1, by simp at h; omega, by simp at h; omega⟩
  induction pr generalizing k s es with
  | finish c => cases k with | zero => omega | succ k => rfl
  | done => cases k with | zero => omega | succ k => rfl
  | select next ih =>
    obtain ⟨fs, rfl, h2⟩ := events_cons (traffic_select s) h
    obtain ⟨k, rfl, hf⟩ := pos hk
    exact ih k _ fs h2 hf
  | deselect next ih =>
    obtain ⟨fs, rfl, h2⟩ := events_cons (traffic_deselect s) h
    obtain ⟨k, rfl, hf⟩ := pos hk
    exact ih k _ fs h2 hf
  | write b next ih =>
    obtain ⟨fs, rfl, h2⟩ := events_cons (traffic_spiWrite b s) h
    obtain ⟨k, rfl, hf⟩ := pos hk
    exact ih k _ fs h2 hf
  | read next ih =>
    rw [Prog.run_read] at h
    obtain ⟨fs, rfl, h2⟩ := events_cons (traffic_spiRead s) h
    obtain ⟨k, rfl, hf⟩ := pos hk
    have ha := ih (deviceByte s) k _ fs h2 hf
    rw [Prog.run_read, ← spiReadValue_eq] at *
    exact ha
  | delay n next ih =>
    obtain ⟨fs, rfl, h2⟩ := events_cons (traffic_delay n s) h
    obtain ⟨k, rfl, hf⟩ := pos hk
    exact ih k _ fs h2 hf
  | ready v next ih => exact ih k (setReady v s) es h hk
  | eng e next ih => exact ih k (setEng e s) es h hk
  | rdata b next ih => exact ih k (setRdata b s) es h hk
  | rxinfo d next ih => exact ih k (setRxinfo d s) es (by simpa using h) hk
  | store i b next ih => exact ih k (bufStore i b s) es h hk
  | load i next ih => exact ih _ k s es h hk

/-! ### An operation with the host beside it -/

/-- What one touch short of a reset does to a running operation's state: it touches the host side alone. -/
def touched (a : BusyAct) (t : State) : State :=
  match a.touch with
  | .read r => answer r t
  | .write r _ => writeWhileBusy r t
  | .reset _ => t

/-- The host side after a touch short of a reset. -/
theorem touched_eq (a : BusyAct) (t : State) :
    ∃ xs, touched a t = withHost (t.ovr || a.isCommand) (t.answers ++ xs) t.host t ∧
      xs.map Prod.fst = a.registerRead.toList := by
  rcases a with ⟨k, r | ⟨r, w⟩ | j⟩
  · exact ⟨[(r, readReg r t)], by simp [touched, BusyAct.isCommand, withHost, answer], rfl⟩
  · refine ⟨[], ?_, rfl⟩
    cases r <;> simp [touched, BusyAct.isCommand, withHost, writeWhileBusy, overrun]
  · exact ⟨[], by simp [touched, BusyAct.isCommand, withHost], rfl⟩

/-- Short of a reset, an operation with the host beside it ends as it would alone but for the host side: the acts that
come in time raise OVR and are recorded, the others come after the operation. -/
theorem runBusy_eq (acts : List BusyAct) (pr : Prog) (s : State) (es : List Event)
    (hr : ∀ a ∈ acts, ∀ j, a.touch ≠ .reset j) (h : (pr.run s).trace = s.trace ++ es) :
    ∃ early late xs, acts = early ++ late ∧
      runBusy acts pr s = withHost (s.ovr || early.any BusyAct.isCommand) (s.answers ++ xs)
        (late.map (fun a => a.touch.afterwards) ++ s.host) (pr.run s) ∧
      xs.map Prod.fst = early.filterMap BusyAct.registerRead ∧
      ∀ n, n ≤ acts.length → (eventsBefore (acts.take n) ≤ es.length ↔ n ≤ early.length) := by
  induction acts generalizing pr s es with
  | nil =>
    have hh := (Prog.run_hostSide pr s).1
    refine ⟨[], [], [], rfl, ?_, rfl, fun n hn => by simp at hn; simp [hn, eventsBefore]⟩
    simp [runBusy, withHost, ← hh.ovr, ← hh.host, ← hh.answers]
  | cons a acts ih =>
    by_cases hk : a.after ≤ es.length
    · obtain ⟨t, rest, ha, hs⟩ := pr.advance_events a.after s es h hk
      have hrun := pr.advance_run a.after s
      have hovr := pr.advance_ovr a.after s
      simp only [ha] at hrun hovr
      obtain ⟨ys, ht, hy⟩ := touched_eq a t
      have hrest : rest.run (touched a t) =
          withHost (t.ovr || a.isCommand) (t.answers ++ ys) t.host (pr.run s) := by
        rw [ht, Prog.run_withHost, hrun]
      have htr : (rest.run (touched a t)).trace = (touched a t).trace ++ es.drop a.after := by
        rw [hrest, ht]
        show (pr.run s).trace = t.trace ++ _
        rw [h, hs.traffic.trace, List.append_assoc, List.take_append_drop]
      obtain ⟨early, late, xs, rfl, he, hx, hn⟩ :=
        ih rest (touched a t) _ (fun b hb => hr b (List.mem_cons_of_mem _ hb)) htr
      refine ⟨a :: early, late, ys ++ xs, rfl, ?_, ?_, ?_⟩
      · have hstep : runBusy (a :: (early ++ late)) pr s = runBusy (early ++ late) rest (touched a t) := by
          simp only [runBusy, ha, touched]
          rcases htouch : a.touch with r | ⟨r, w⟩ | j
          · rfl
          · rfl
          · exact absurd htouch (hr a List.mem_cons_self j)
        rw [hstep, he, hrest, ht]
        simp [withHost, hovr, hs.answers, hs.host, Bool.or_assoc]
      · simp only [List.map_append, hy, hx, List.filterMap_cons]
        cases a.registerRead <;> rfl
      · intro n hle
        cases n with
        | zero => simp [eventsBefore]
        | succ n =>
          have h1 := hn n (by simpa using hle)
          simp only [eventsBefore, List.take_succ_cons, List.map_cons, List.sum_cons, List.length_cons,
            List.length_drop] at h1 ⊢
          omega
    · refine ⟨[], a :: acts, [], rfl, ?_, rfl, ?_⟩
      · have hh := (Prog.run_hostSide pr s).1
        simp only [runBusy, pr.advance_end a.after s es h (by omega), requeue]
        simp [withHost, hh.host, ← hh.ovr, ← hh.answers]
      · intro n _
        cases n with
        | zero => simp [eventsBefore]
        | succ n => simp [eventsBefore]; omega

end Sys2Proof.Machine
end

