-- ==== Sys2Proof/Laws/PerInstr.lean ====
section
/-! SUPPORT. Statements about every instruction as syntax, one lemma for each constructor. -/

namespace Sys2Proof.Laws.EncodeLength

/-- How many bytes the unit of an instruction has: four for a command word (spec/30_encoding R68), or the length of
its wire format (R62, R63, R64). -/
def unitBytes : Instr → Nat
  | .frame _ payload => payload.length + 8
  | .ack => 6
  | .statusExchange _ _ => 2
  | .sel | .dsl | .wrb _ | .rdb | .stb _ _ | .ldb _ | .txc _ | .dec _ | .poll | .wrdy _ | .rack | .rdf _
  | .cmd _ _ | .reservedOp0 _ | .reservedOpE _ | .reservedOpF _ | .reservedHighNibble _ _ _ => 4

/-- The encoding of an instruction has the bytes its format has. -/
def Statement (i : Instr) : Prop := (encode i).length = unitBytes i

theorem sel : Statement .sel := rfl
theorem dsl : Statement .dsl := rfl
theorem wrb (v : Byte) : Statement (.wrb v) := rfl
theorem rdb : Statement .rdb := rfl
theorem stb (i v : Byte) : Statement (.stb i v) := rfl
theorem ldb (i : Byte) : Statement (.ldb i) := rfl
theorem txc (len : Byte) : Statement (.txc len) := rfl
theorem dec (n : Byte) : Statement (.dec n) := rfl
theorem poll : Statement .poll := rfl
theorem wrdy (t : BitVec 16) : Statement (.wrdy t) := rfl
theorem rack : Statement .rack := rfl
theorem rdf (n : Byte) : Statement (.rdf n) := rfl
theorem cmd (len : Byte) (t : BitVec 16) : Statement (.cmd len t) := rfl
theorem reservedOp0 (rest : BitVec 28) : Statement (.reservedOp0 rest) := rfl
theorem reservedOpE (rest : BitVec 28) : Statement (.reservedOpE rest) := rfl
theorem reservedOpF (rest : BitVec 28) : Statement (.reservedOpF rest) := rfl
theorem reservedHighNibble (op r : BitVec 4) (ab : BitVec 24) : Statement (.reservedHighNibble op r ab) := rfl
theorem frame (dir : Direction) (payload : List Byte) : Statement (.frame dir payload) := by
  simp [Statement, encode, unitBytes, Machine.frame, Machine.startBytes]
theorem ack : Statement .ack := rfl
theorem statusExchange (q r : Byte) : Statement (.statusExchange q r) := rfl

end Sys2Proof.Laws.EncodeLength
end

