-- ==== Sys2Proof/Tests/Slice0.lean ====
section
/-! SUPPORT. Tests of the model: the ill-formed terms each check refuses, words and frames written out from the spec,
one or two single steps for each instruction, and for each statement of Certificates/Slice0/Obligations.lean a
concrete case that meets its hypotheses. Expected values come from spec/95_test_vectors.md (named by section) or from
the rule a comment names. -/

namespace Sys2Proof.Tests

open Sys2Proof.Machine

set_option maxRecDepth 20000

/-- Configuration T0 of spec/95_test_vectors.md, the last three parameters at any values (no vector depends on them). -/
def t0 : Config.Params where
  bufExtra := 0
  statusReq := 0x02
  txPrefix := []
  rxPrefix := []
  cpol := false
  cpha := false
  tick := 1
  hostBase := 0
  hostStride := 4

/-- Configuration T1 of spec/95_test_vectors.md. -/
def t1 : Config.Params := { t0 with txPrefix := [0x01], rxPrefix := [0x03] }

/-- Reset, with given parameters and a device script. -/
def start (p : Config.Params) (dev : List Byte) : State := { State.reset with par := p, dev := dev }

/-- Some staged bytes at index 0 and up. -/
def staged (bytes : List Byte) (s : State) : State :=
  { s with buf := bytes.zipIdx.map fun c => (c.2, c.1) }

/-- A next state with a property. -/
def holds (r : Result) (p : State → Bool) : Bool :=
  match r with
  | .next t => p t
  | .fault _ | .refused _ => false

/-- A next state with a property is a next state that has it. -/
theorem of_holds {r : Result} {p : State → Bool} (h : holds r p = true) : ∃ t, r = .next t ∧ p t = true := by
  cases r with
  | next t => exact ⟨t, rfl, h⟩
  | fault r => cases h
  | refused r => cases h

/-! ### Well-formedness: one ill-formed term for each check -/

theorem test_wf_refuses_zero_nibble : (Instr.reservedHighNibble 0x1 0 0).wf = false := by decide
theorem test_wf_refuses_reserved_op : (Instr.reservedHighNibble 0xE 1 0).wf = false := by decide
theorem test_wf_refuses_long_payload : (Instr.frame .hostToDevice (List.replicate 255 0)).wf = false := by decide
theorem test_wf_accepts_longest_payload :
    (Instr.frame .hostToDevice (List.replicate 254 0)).wf = true := by decide

/-! ### Decoding: words written out field by field, B | A | reserved | OP (R68; 95_test_vectors 2.1) -/

theorem test_decode_sel : decodeWord 0b0000000000000000_00000000_0000_0001 = .sel := by decide
theorem test_decode_dsl : decodeWord 0b0000000000000000_00000000_0000_0010 = .dsl := by decide
theorem test_decode_wrb : decodeWord 0b0000000000000000_11010100_0000_0011 = .wrb 0xD4 := by decide
theorem test_decode_rdb : decodeWord 0b0000000000000000_00000000_0000_0100 = .rdb := by decide
theorem test_decode_stb : decodeWord 0b0000000010100100_00000011_0000_0101 = .stb 3 0xA4 := by decide
/-- B[15:8] of STB is ignored (R69). -/
theorem test_decode_stb_ignores_high_b : decodeWord 0xFFA40305 = .stb 3 0xA4 := by decide
theorem test_decode_ldb : decodeWord 0b0000000000000000_00000110_0000_0110 = .ldb 6 := by decide
theorem test_decode_txc : decodeWord 0b0000000000000000_00111110_0000_0111 = .txc 62 := by decide
theorem test_decode_dec : decodeWord 0b0000000000000000_00001101_0000_1000 = .dec 13 := by decide
theorem test_decode_poll : decodeWord 0b0000000000000000_00000000_0000_1001 = .poll := by decide
theorem test_decode_wrdy : decodeWord 0b0111010100110000_00000000_0000_1010 = .wrdy 30000 := by decide
theorem test_decode_rack : decodeWord 0b0000000000000000_00000000_0000_1011 = .rack := by decide
theorem test_decode_rdf : decodeWord 0b0000000000000000_00001101_0000_1100 = .rdf 13 := by decide
theorem test_decode_cmd : decodeWord 0b0000001111101000_00000001_0000_1101 = .cmd 1 1000 := by decide
theorem test_decode_reserved_0 : decodeWord 0x00000000 = .reservedOp0 0 := by decide
theorem test_decode_reserved_e : decodeWord 0x0000001E = .reservedOpE 1 := by decide
theorem test_decode_reserved_f : decodeWord 0x00003F0F = .reservedOpF 0x00003F0 := by decide
theorem test_decode_reserved_nibble : decodeWord 0x00000011 = .reservedHighNibble 0x1 0x1 0 := by decide
/-- 95_test_vectors 2.1: SEL with junk operands. -/
theorem test_decode_sel_junk : decodeWord 0xFFFFFF01 = .sel := by decide
/-- 95_test_vectors 2.4, P = 02. -/
theorem test_decode_frame :
    decode [0x00, 0x00, 0xFF, 0x02, 0xFE, 0xD4, 0x02, 0x2A, 0x00] = .ok (.frame .hostToDevice [0x02]) := by decide
/-- 95_test_vectors 2.4, the response frame with payload 15. -/
theorem test_decode_frame_device :
    decode [0x00, 0x00, 0xFF, 0x02, 0xFE, 0xD5, 0x15, 0x16, 0x00] = .ok (.frame .deviceToHost [0x15]) := by decide
theorem test_decode_frame_bad_dcs :
    decode [0x00, 0x00, 0xFF, 0x02, 0xFE, 0xD4, 0x02, 0x29, 0x00] = .reject .badPayloadChecksum := by decide
theorem test_decode_ack : decode [0x00, 0x00, 0xFF, 0x00, 0xFF, 0x00] = .ok .ack := by decide
theorem test_decode_not_ack : decode [0x00, 0x00, 0xFF, 0x00, 0xFF, 0x01] = .reject .notAck := by decide
theorem test_decode_status : decode [0x02, 0x01] = .ok (.statusExchange 0x02 0x01) := by decide

/-- The table gives SEL eight bits; the operand bits above are zero. -/
theorem test_table_word_short : decodeTableWord 8 0x01 = some .sel := by decide
/-- First byte in bits 7 to 0. -/
theorem test_table_word_ack : decodeTableWord 48 0x00FF00FF0000 = some .ack := by decide
theorem test_fetch_runs :
    holds (step (State.reset.withFetchWord 8 0x01)) (fun t => t.ss == false && t.trace == [.sel]) = true := by decide

/-! ### Checksums, frames and their decoding (95_test_vectors 2.3, 2.4, 2.6) -/

theorem test_neg8 : neg8 0x00 = 0x00 ∧ neg8 0x3F = 0xC1 ∧ neg8 0x80 = 0x80 := by decide
theorem test_encode_command :
    encodeCommand 0x14 [0x01, 0x14, 0x01] =
      [0x00, 0x00, 0xFF, 0x05, 0xFB, 0xD4, 0x14, 0x01, 0x14, 0x01, 0x02, 0x00] := by decide
/-- Row 1, and row 2b (one byte less than the decoder needs). -/
theorem test_decoder_takes_response :
    decodeFrame [0x00, 0x00, 0xFF, 0x06, 0xFA, 0xD5, 0x03, 0x32, 0x01, 0x06, 0x07, 0xE8, 0x00] =
      .ok 0xD5 [0x03, 0x32, 0x01, 0x06, 0x07] ∧
    decodeFrame [0x00, 0x00, 0xFF, 0x06, 0xFA, 0xD5, 0x03, 0x32, 0x01, 0x06, 0x07] = .error .shortFrame := by decide
/-- Rows 3c, 5b and 9: the order of the checks. -/
theorem test_decoder_order :
    decodeFrame [0x00, 0x00, 0xFE, 0x02, 0xFD, 0xD4, 0x02, 0x29, 0x00] = .error .preambleMismatch ∧
    decodeFrame [0x00, 0x00, 0xFF, 0x02, 0xFD, 0xD4, 0x02, 0x29, 0x00] = .error .lengthChecksumMismatch ∧
    decodeFrame [0x00, 0x00, 0xFF, 0x00, 0x00, 0x00] = .error .shortFrame := by decide

/-! ### One step of each instruction -/

/-- 2.2, `SEL; SEL` from reset: the second is traced too. -/
theorem test_sel_twice :
    holds (execAll [.sel, .sel] (start t0 [])) (fun t => !t.ss && t.trace == [.sel, .sel]
      && statusWord t == 0x00000000) = true := by decide
/-- 2.2, `DSL` from reset. -/
theorem test_dsl :
    holds (exec .dsl (start t0 [])) (fun t => t.trace == [.dsl] && statusWord t == 0x00000004) = true := by decide
/-- 2.2: 0xD4 goes out as 0 0 1 0 1 0 1 1 and MOSI keeps the last level. -/
theorem test_wrb :
    holds (exec (.wrb 0xD4) (start t0 [])) (fun t => t.trace == [.w 0xD4] && t.mosi
      && t.wave.filter (fun e => e == .mosi true || e == .mosi false) ==
        [.mosi false, .mosi false, .mosi true, .mosi false, .mosi true, .mosi false, .mosi true, .mosi true])
      = true := by decide
/-- 2.2: the device drives 1 0 0 0 0 0 0 0. -/
theorem test_rdb :
    holds (exec .rdb (start t0 [0x01])) (fun t => t.rdata == 0x01 && t.trace == [.r 0x01] && t.dev == [])
      = true := by decide
/-- 2.9: the last index is in range, the next is BadArg. -/
theorem test_stb :
    holds (exec (.stb 63 1) (start t0 [])) (fun t => t.buf == [(63, 1)] && t.result == .ok) = true ∧
    holds (exec (.stb 64 1) (start t0 [])) (fun t => t.buf == [] && statusWord t == 0x00000704) = true := by decide
/-- P1 row 4, and 2.9 `LDB 64`. -/
theorem test_ldb :
    holds (exec (.ldb 1) (staged [0x02, 0x03] (start t0 []))) (fun t => t.rdata == 0x03) = true ∧
    holds (exec (.ldb 64) (start t0 [])) (fun t => t.rdata == 0 && statusWord t == 0x00000704) = true := by decide
/-- 2.4 under T1: P = 14 01 14 01. -/
theorem test_txc :
    holds (exec (.txc 4) (staged [0x14, 0x01, 0x14, 0x01] (start t1 []))) (fun t => t.trace ==
      [.sel, .w 0x01, .w 0x00, .w 0x00, .w 0xFF, .w 0x05, .w 0xFB, .w 0xD4, .w 0x14, .w 0x01, .w 0x14, .w 0x01,
        .w 0x02, .w 0x00, .dsl]) = true := by decide
/-- 2.9 `TXC 63`. -/
theorem test_txc_bad :
    holds (exec (.txc 63) (start t0 [])) (fun t => t.trace == [] && statusWord t == 0x00000704) = true := by decide
/-- 2.6 row 11, and row 6 after it: an error clears RXINFO. -/
theorem test_dec :
    holds (exec (.dec 8) (staged [0x00, 0x00, 0xFF, 0x01, 0xFF, 0x7F, 0x81, 0x00] (start t0 [])))
      (fun t => rxinfoWord t == 0x0001007F && t.result == .ok) = true ∧
    holds (exec (.dec 9) { staged [0x00, 0x00, 0xFF, 0x02, 0xFE, 0xD4, 0x02, 0x29, 0x00] (start t0 []) with
      rxValid := true, rxLen := 5, rxDir := 0xD5 })
      (fun t => rxinfoWord t == 0 && t.result == .payloadChecksumMismatch) = true := by decide
/-- 2.7: POLL with device 01, and with device 03. -/
theorem test_poll :
    holds (exec .poll (start t0 [0x01])) (fun t => statusWord t == 0x00000006 && t.rdata == 0x01
      && t.trace == [.sel, .w 0x02, .r 0x01, .dsl]) = true ∧
    holds (exec .poll (start t0 [0x03])) (fun t => statusWord t == 0x00000004 && t.rdata == 0x03) = true := by decide
/-- 2.7, `WRDY 25` with 00 01. -/
theorem test_wrdy_ready :
    holds (exec (.wrdy 25) (start t0 [0x00, 0x01])) (fun t => t.result == .ok && t.ready && t.trace ==
      [.sel, .w 0x02, .r 0x00, .dsl, .d 10, .sel, .w 0x02, .r 0x01, .dsl]) = true := by decide
/-- 2.7, `WRDY 25` with 03 FF 81. -/
theorem test_wrdy_timeout :
    holds (exec (.wrdy 25) (start t0 [0x03, 0xFF, 0x81])) (fun t => t.result == .timeout && !t.ready && t.trace ==
      [.sel, .w 0x02, .r 0x03, .dsl, .d 10, .sel, .w 0x02, .r 0xFF, .dsl, .d 10, .sel, .w 0x02, .r 0x81, .dsl])
      = true := by decide
/-- 2.8 under T1, and a first byte that differs: all six are read all the same. -/
theorem test_rack :
    holds (exec .rack (start t1 [0x00, 0x00, 0xFF, 0x00, 0xFF, 0x00])) (fun t => t.result == .ok && t.trace ==
      [.sel, .w 0x03, .r 0x00, .r 0x00, .r 0xFF, .r 0x00, .r 0xFF, .r 0x00, .dsl]) = true ∧
    holds (exec .rack (start t0 [0x01, 0x00, 0xFF, 0x00, 0xFF, 0x00])) (fun t => t.result == .ackMismatch
      && t.dev == []) = true := by decide
/-- P4 row 9. -/
theorem test_rdf :
    holds (exec (.rdf 9) (start t1 [0x00, 0x00, 0xFF, 0x02, 0xFE, 0xD5, 0x15, 0x16, 0x00]))
      (fun t => t.result == .ok && rxinfoWord t == 0x000101D5 && t.buf.length == 9 && t.buf.get? 6 == some 0x15)
      = true := by decide
/-- P4b: the damaged response stays in BUF. -/
theorem test_rdf_damaged :
    holds (exec (.rdf 13) (start t1 [0x00, 0x00, 0xFF, 0x06, 0xFA, 0xD5, 0x03, 0x32, 0x01, 0x06, 0x07, 0xE9, 0x00]))
      (fun t => statusWord t == 0x00000504 && rxinfoWord t == 0 && t.buf.get? 11 == some 0xE9) = true := by decide
/-- P1 row 2: the trace added and STATUS. -/
theorem test_cmd :
    holds (exec (.cmd 1 1000) (staged [0x02] (start t0 [0x01, 0x00, 0x00, 0xFF, 0x00, 0xFF, 0x00, 0x01])))
      (fun t => statusWord t == 0x00000056 && t.trace ==
        [.sel, .w 0x00, .w 0x00, .w 0xFF, .w 0x02, .w 0xFE, .w 0xD4, .w 0x02, .w 0x2A, .w 0x00, .dsl,
          .sel, .w 0x02, .r 0x01, .dsl, .sel, .r 0x00, .r 0x00, .r 0xFF, .r 0x00, .r 0xFF, .r 0x00, .dsl,
          .sel, .w 0x02, .r 0x01, .dsl]) = true := by decide
/-- P2 with `CMD 1, 5`: one poll, no delay, no ACK read. -/
theorem test_cmd_timeout :
    holds (exec (.cmd 1 5) (staged [0x02] (start t0 [0x00, 0x00, 0x00])))
      (fun t => statusWord t == 0x00000164 && t.dev == [0x00, 0x00] && t.trace.length == 15) = true := by decide
/-- 2.9: each reserved pattern. -/
theorem test_reserved_0 :
    holds (exec (.reservedOp0 0) (start t0 [])) (fun t => statusWord t == 0x00000804 && t.trace == []) = true := by decide
theorem test_reserved_e :
    holds (exec (.reservedOpE 1) (start t0 [])) (fun t => statusWord t == 0x00000804 && t.trace == []) = true := by decide
theorem test_reserved_f :
    holds (exec (.reservedOpF 0x3F0) (start t0 [])) (fun t => statusWord t == 0x00000804 && t.trace == []) = true := by
  decide
theorem test_reserved_nibble :
    holds (exec (.reservedHighNibble 0x1 0x1 0) (start t0 []))
      (fun t => statusWord t == 0x00000804 && t.ss && t.trace == []) = true := by decide
/-- R67, R62: the two directions of a frame. -/
theorem test_frame_write :
    holds (exec (.frame .hostToDevice [0x02]) (start t1 [])) (fun t => t.trace ==
      [.sel, .w 0x01, .w 0x00, .w 0x00, .w 0xFF, .w 0x02, .w 0xFE, .w 0xD4, .w 0x02, .w 0x2A, .w 0x00, .dsl])
      = true := by decide
theorem test_frame_read :
    holds (exec (.frame .deviceToHost [0x15]) (start t0 [])) (fun t => t.buf.get? 7 == some 0x16 && t.trace ==
      [.sel, .r 0x00, .r 0x00, .r 0xFF, .r 0x02, .r 0xFE, .r 0xD5, .r 0x15, .r 0x16, .r 0x00, .dsl]) = true := by decide
/-- R67, R63. -/
theorem test_ack :
    holds (exec .ack (start t1 [])) (fun t => t.buf == [] && t.trace ==
      [.sel, .w 0x03, .r 0x00, .r 0x00, .r 0xFF, .r 0x00, .r 0xFF, .r 0x00, .dsl]) = true := by decide
/-- R67, R64. -/
theorem test_status_exchange :
    holds (exec (.statusExchange 0x02 0x01) (start t0 [])) (fun t => t.ready && t.trace ==
      [.sel, .w 0x02, .r 0x01, .dsl]) = true := by decide

/-! ### The host's acts -/

/-- 2.9, last paragraph: a command word during the delay of a WRDY sets OVR; STATUS read then shows BUSY and OVR. -/
theorem test_overrun :
    holds (step { start t0 [0x00, 0x01] with host :=
        [.write .cmdw 0x0019000A [⟨5, .write .cmdw 0x00000001⟩, ⟨0, .read .status⟩]] })
      (fun t => t.ovr && t.ss && t.result == .ok && t.answers == [(.status, 0x0000000D)]
        && t.trace.length == 9) = true := by decide
/-- R211: reset after two events of a POLL. -/
theorem test_reset_cuts :
    holds (step { start t0 [0x01] with host := [.write .cmdw 0x00000009 [⟨2, .reset 3⟩]] })
      (fun t => t.trace == [.sel, .w 0x02] && statusWord t == 0x00000004 && !t.mosi && t.dev == [0x01]) = true := by
  decide

/-! ### The hypotheses of the statements can be met

For each statement with hypotheses (or with clauses that have them) a case that meets them, at the ends of each range. -/

theorem witness_DecodeOfEncodeIsTheInstruction :
    (Instr.frame .deviceToHost [0x15]).wf = true ∧ (Instr.reservedHighNibble 0x1 0x1 0).wf = true ∧
    (Instr.cmd 62 65535).wf = true := by decide

theorem witness_ReservedWordsFinishBadOp :
    (0x00000000 : Word) &&& 0xF = 0x0 ∧ (0x0000001E : Word) &&& 0xF = 0xE ∧ (0x00003F0F : Word) &&& 0xF = 0xF ∧
    (0x00000011 : Word) &&& 0xF0 ≠ 0 ∧
    ¬((0xFFFFFF01 : Word) &&& 0xF = 0x0 ∨ (0xFFFFFF01 : Word) &&& 0xF = 0xE ∨ (0xFFFFFF01 : Word) &&& 0xF = 0xF ∨
      (0xFFFFFF01 : Word) &&& 0xF0 ≠ 0) := by decide

theorem witness_WriteByteClocksBitZeroFirst :
    (start t0 []).par.cpol = false ∧ (start t0 []).par.cpha = false := by decide

theorem witness_ReadByteSamplesBitZeroFirst :
    (start t1 [0x80]).par.cpol = false ∧ (start t1 [0x80]).par.cpha = false := by decide

theorem witness_PinsAndDeviceFollowTheTrace :
    isWireFormat .rack = false ∧ ∃ t, exec .rack (start t1 []) = .next t := ⟨rfl, _, rfl⟩

theorem witness_StoreByteWritesOneByte :
    (63 : Byte).toNat < (start t0 []).par.bufCap ∧ ¬(64 : Byte).toNat < (start t0 []).par.bufCap ∧
    (62 : Nat) ≠ (63 : Byte).toNat := by decide

theorem witness_LoadByteReadsTheBuffer :
    (63 : Byte).toNat < (start t0 []).par.bufCap ∧ ¬(64 : Byte).toNat < (start t0 []).par.bufCap ∧
    (start t0 []).buf.get? 63 = none ∧ (staged [0x02] (start t0 [])).buf.get? (0 : Byte).toNat = some 0x02 := by decide

/-- In between: a poll, a store elsewhere, a frame read just below the byte, one turned away, a short frame row. -/
theorem witness_StoredByteIsLoadedLater :
    (63 : Byte).toNat < (start t0 [0x01]).par.bufCap ∧
    (∀ j ∈ [Instr.poll, .stb 0 1, .rdf 63, .rdf 65, .frame .deviceToHost [0x15]], (∀ x, j ≠ .stb 63 x) ∧
      (∀ n, j = .rdf n → n.toNat ≤ (63 : Byte).toNat ∨ (start t0 [0x01]).par.bufCap < n.toNat) ∧
      (∀ payload, j = .frame .deviceToHost payload → (frame 0xD5 payload).length ≤ (63 : Byte).toNat)) ∧
    ∃ t u, exec (.stb 63 5) (start t0 [0x01]) = .next t ∧
      execAll [.poll, .stb 0 1, .rdf 63, .rdf 65, .frame .deviceToHost [0x15]] t = .next u := by
  refine ⟨by decide, ?_, _, _, rfl, rfl⟩
  intro j h
  simp only [List.mem_cons, List.not_mem_nil, or_false] at h
  rcases h with rfl | rfl | rfl | rfl | rfl <;> simp <;> decide

theorem witness_LoadStagesThePayload :
    (List.replicate 64 (7 : Byte)).length ≤ (start t0 []).par.bufCap ∧ ([] : List Byte).length ≤ (start t0 []).par.bufCap ∧
    63 < (List.replicate 64 (7 : Byte)).length := by decide

theorem witness_ChecksumLaws : (0x80 : Byte) ≠ 0 ∧ [0x02, 0x03].Perm ([0x03, 0x02] : List Byte) := by decide

theorem witness_FrameLayoutByIndex :
    ([] : List Byte).length ≤ 254 ∧ (List.replicate 254 (0 : Byte)).length ≤ 254 ∧
    253 < (List.replicate 254 (0 : Byte)).length := by decide

theorem witness_TransmitSendsTheFrame : (62 : Byte).toNat ≤ 62 ∧ ¬(63 : Byte).toNat ≤ 62 := by decide

theorem witness_DecodeOperationReports :
    (1 ≤ (1 : Byte).toNat ∧ (1 : Byte).toNat ≤ (start t0 []).par.bufCap) ∧
    (1 ≤ (64 : Byte).toNat ∧ (64 : Byte).toNat ≤ (start t0 []).par.bufCap) ∧
    ¬(1 ≤ (0 : Byte).toNat ∧ (0 : Byte).toNat ≤ (start t0 []).par.bufCap) ∧
    ¬(1 ≤ (65 : Byte).toNat ∧ (65 : Byte).toNat ≤ (start t0 []).par.bufCap) := by decide

/-- Each error's hypotheses, at the least and the greatest bytes they allow. -/
theorem witness_DecoderErrorsInOrder :
    [0x00, 0x00].length < 3 ∧ [0x00, 0x00, 0xFE] ≠ ([0x00, 0x00, 0xFF] : List Byte) ∧
    (0xFF : Byte) + 0xFF ≠ 0 ∧ (0x00 : Byte) + 0xFF ≠ 0 ∧
    ((0x02 : Byte) + 0xFE = 0 ∧ ([0xD4, 0x02] : List Byte).length < (0x02 : Byte).toNat + 1) ∧
    ((0xFF : Byte) + 0x01 = 0 ∧ (List.replicate 255 (0 : Byte)).length < (0xFF : Byte).toNat + 1) ∧
    ((0x02 : Byte) + 0xFE = 0 ∧ (0x02 : Byte) ≠ 0 ∧ (0x02 : Byte).toNat + 1 ≤ ([0xD4, 0x02, 0x29] : List Byte).length ∧
      sum8 (([0xD4, 0x02, 0x29] : List Byte).take ((0x02 : Byte).toNat + 1)) ≠ 0) := by decide

theorem witness_FrameRoundTrip : (List.replicate 254 (0 : Byte)).length ≤ 254 := by decide

/-- One byte of each field of a frame with one payload byte: indices 0, 2 | 3, 4 | 5, 7 | 8. -/
theorem witness_SingleByteDamageIsSeen :
    (frame 0xD4 [0x02])[0]? = some 0x00 ∧ (frame 0xD4 [0x02])[2]? = some 0xFF ∧ (frame 0xD4 [0x02])[3]? = some 0x02 ∧
    (frame 0xD4 [0x02])[4]? = some 0xFE ∧ (frame 0xD4 [0x02])[5]? = some 0xD4 ∧ (frame 0xD4 [0x02])[7]? = some 0x2A ∧
    (frame 0xD4 [0x02])[8]? = some 0x00 ∧
    ∀ old ∈ ([0x00, 0xFF, 0x02, 0xFE, 0xD4, 0x2A] : List Byte), (0x33 : Byte) ≠ old := by decide

theorem witness_AcknowledgementIsNoFrame : ([] : List Byte).length ≤ 254 := by decide

theorem witness_WaitPollsWithinTheBudget : (0 : BitVec 16) = 0 ∧ (1 : BitVec 16) ≠ 0 ∧ (65535 : BitVec 16) ≠ 0 := by
  decide

theorem witness_ReadFrameFillsTheBuffer :
    (1 ≤ (1 : Byte).toNat ∧ (1 : Byte).toNat ≤ (start t1 []).par.bufCap) ∧
    (1 ≤ (64 : Byte).toNat ∧ (64 : Byte).toNat ≤ (start t1 []).par.bufCap) ∧
    ¬(1 ≤ (0 : Byte).toNat ∧ (0 : Byte).toNat ≤ (start t1 []).par.bufCap) ∧
    ¬(1 ≤ (65 : Byte).toNat ∧ (65 : Byte).toNat ≤ (start t1 []).par.bufCap) := by decide

theorem witness_ReadFrameIsRawReadThenDecode :
    1 ≤ (64 : Byte).toNat ∧ (64 : Byte).toNat ≤ (start t1 []).par.bufCap := by decide

theorem witness_RequestOutcomes :
    ((0 : Byte).toNat ≤ 62 ∧ (1 : BitVec 16) ≠ 0) ∧ ((62 : Byte).toNat ≤ 62 ∧ (65535 : BitVec 16) ≠ 0) := by decide

theorem witness_PromptDeviceCompletesTheRequest :
    (62 : Byte).toNat ≤ 62 ∧ (1 : BitVec 16) ≠ 0 ∧
    (start t1 [0x01, 0x00, 0x00, 0xFF, 0x00, 0xFF, 0x00, 0x01, 0x55]).dev =
      [0x01] ++ ackBytes ++ [0x01] ++ [0x55] := by decide

theorem witness_RequestEqualsItsSequence :
    ¬62 < (62 : Byte).toNat ∧ 62 < (63 : Byte).toNat ∧ (1 : BitVec 16) ≠ 0 ∧ ¬(0 : BitVec 16) ≠ 0 := by decide

/-- P1, rows 2 and 3. -/
theorem witness_ExchangeDeliversTheResponse :
    ∃ t, execWhileOk (exchange 1 1000 13) (staged [0x02] (start t0 ([0x01] ++ ackBytes ++ [0x01] ++
      [0x00, 0x00, 0xFF, 0x06, 0xFA, 0xD5, 0x03, 0x32, 0x01, 0x06, 0x07, 0xE8, 0x00]))) = .next t ∧
      (t.result == .ok && rxinfoWord t == 0x000105D5) = true :=
  of_holds (p := fun t => t.result == .ok && rxinfoWord t == 0x000105D5) (by decide)

theorem witness_WrittenBytesAreUsedAsWritten :
    dutyWritten (staged [0x02, 0x03] (start t0 [])) 2 = true ∧ 1 < 2 := by decide

theorem witness_OpenBracketIsNotDetected :
    isWireFormat .poll = false ∧ ∃ t, exec .poll (start t0 [0x01]) = .next t := ⟨rfl, _, rfl⟩

theorem witness_EveryOperationEnds :
    isWireFormat (.cmd 1 5) = false ∧
    holds (exec (.cmd 1 5) (staged [0x02] (start t0 [0x00]))) (fun t => t.result != .badArg) = true := by decide

theorem witness_OperandsOutOfRangeAreTurnedAway :
    (start t0 []).par.bufCap ≤ (64 : Byte).toNat ∧ (start t0 []).par.bufCap ≤ (255 : Byte).toNat ∧
    62 < (63 : Byte).toNat ∧ (start t0 []).par.bufCap < (65 : Byte).toNat ∧
    (62 < (1 : Byte).toNat ∨ (0 : BitVec 16) = 0) := by decide

theorem witness_ResultCodesByOperation :
    isWireFormat (.wrdy 1) = false ∧ ∃ t, exec (.wrdy 1) (start t0 [0x01]) = .next t := ⟨rfl, _, rfl⟩

theorem witness_WritersOfEachRegister :
    isWireFormat (.stb 0 1) = false ∧ (∃ t, exec (.stb 0 1) (start t0 []) = .next t) ∧
    (∀ len T, Instr.stb 0 1 ≠ .cmd len T) ∧ Instr.stb 0 1 ≠ .poll ∧ Instr.stb 0 1 ≠ .rdb ∧
    (∀ n, Instr.stb 0 1 ≠ .dec n) ∧ (∀ n, Instr.sel ≠ .rdf n) ∧ (∀ x v, Instr.sel ≠ .stb x v) :=
  ⟨rfl, ⟨_, rfl⟩, nofun, nofun, nofun, nofun, nofun, nofun⟩

theorem witness_BracketsAreClosed :
    (∃ len, Instr.txc 63 = .txc len) ∧ holds (exec (.txc 63) (start t0 [])) (fun t => t.result == .badArg) = true ∧
    holds (exec .rack (start t0 [0x01, 0x00, 0x00, 0x00, 0x00, 0x00])) (fun t => t.result == .ackMismatch) = true :=
  ⟨⟨_, rfl⟩, by decide, by decide⟩

theorem witness_HostReadsAndOtherWritesDoNothing :
    ({ start t0 [] with host := [.read .cmdw] } : State).host = .read .cmdw :: [] ∧ Reg.rxinfo ≠ .cmdw ∧
    ({ start t0 [] with host := [.write .rxinfo 7 []] } : State).host = .write .rxinfo 7 [] :: [] := by decide

theorem witness_CommandWordWhileBusyIsDropped :
    ({ start t0 [] with busy := true, host := [.write .cmdw 1 []] } : State).busy = true ∧
    ({ start t0 [] with busy := true, host := [.write .cmdw 1 []] } : State).host = .write .cmdw 1 [] :: [] := by decide

theorem witness_OverrunIsSticky :
    let s : State := { start t0 [] with ovr := true, host := [.write .cmdw 1 [⟨0, .read .status⟩]] }
    s.ovr = true ∧ (∃ t, step s = .next t) ∧ (∀ later, s.host ≠ .reset :: later) ∧
    ∀ w acts later, s.host = .write .cmdw w acts :: later → ∀ a ∈ acts, ∀ j, a.touch ≠ .reset j := by
  refine ⟨rfl, ⟨_, rfl⟩, nofun, ?_⟩
  intro w acts later h a ha j
  cases h
  cases List.mem_singleton.mp ha
  exact nofun

theorem witness_ResetActRestoresTheResetValues :
    ({ start t0 [] with ovr := true, host := [.reset] } : State).host = .reset :: [] := by decide

/-- A POLL cut before its first event, and after its last. -/
theorem witness_ResetCutsTheOperation :
    (start t0 [0x01]).busy = false ∧
    holds (exec (decodeWord 0x00000009) (start t0 [0x01]))
      (fun u => u.trace == (start t0 [0x01]).trace ++ [.sel, .w 0x02, .r 0x01, .dsl]) = true ∧
    0 ≤ [Event.sel, .w 0x02, .r 0x01, .dsl].length ∧ 4 ≤ [Event.sel, .w 0x02, .r 0x01, .dsl].length := by decide

theorem witness_StepRunsTheDecodedInstruction :
    ({ start t0 [] with host := [.write .cmdw 1 []] } : State).busy = false ∧
    decode ackBytes = .ok .ack ∧ ackBytes.length ≠ 4 ∧ decodeTableWord 16 0x0102 = some (.statusExchange 0x02 0x01) ∧
    decodeTableWord 32 0x03E8010D = some (.cmd 1 1000) := by decide

theorem witness_NothingHappensWithoutTheHost : (start t0 [0x01]).host = [] := by decide

/-- During a POLL of four events: a dropped word, a read of RDATA, and a read that comes too late. -/
theorem witness_HostCannotDisturbAnOperation :
    (start t0 [0x01]).busy = false ∧
    (∀ a ∈ [BusyAct.mk 2 (.write .cmdw 1), .mk 2 (.read .rdata), .mk 1 (.read .status)], ∀ j,
      a.touch ≠ .reset j) ∧
    holds (exec (decodeWord 0x00000009) { start t0 [0x01] with busy := true })
      (fun u => u.trace == (start t0 [0x01]).trace ++ [.sel, .w 0x02, .r 0x01, .dsl]) = true ∧
    eventsBefore [.mk 2 (.write .cmdw 1), .mk 2 (.read .rdata)] ≤ 4 ∧
    ¬eventsBefore [.mk 2 (.write .cmdw 1), .mk 2 (.read .rdata), .mk 1 (.read .status)] ≤ 4 := by
  refine ⟨rfl, ?_, by decide⟩
  intro a h j
  simp only [List.mem_cons, List.not_mem_nil, or_false] at h
  rcases h with rfl | rfl | rfl <;> simp

/-- R17 in a POLL (spec/42_protocol_engine R142): RDATA still 0 before the last event, 0x01 after it. -/
theorem witness_RegisterReadsWhileBusy :
    holds (exec (decodeWord 0x00000009) (start t0 [0x01]))
      (fun u => u.trace == (start t0 [0x01]).trace ++ [.sel, .w 0x02, .r 0x01, .dsl]) = true ∧
    3 < [Event.sel, .w 0x02, .r 0x01, .dsl].length ∧ ¬4 < [Event.sel, .w 0x02, .r 0x01, .dsl].length ∧
    holds (step { start t0 [0x01] with host := [.write .cmdw 9 [⟨3, .read .rdata⟩, ⟨1, .read .rdata⟩]] })
      (fun t => t.answers == [(.rdata, 0x00), (.rdata, 0x01)]) = true := by decide

/-- A POLL looked at before its first event, and after its last. -/
theorem witness_StatusReadWhileBusy :
    (start t0 [0x01]).busy = false ∧
    holds (exec (decodeWord 0x00000009) (start t0 [0x01]))
      (fun u => u.trace == (start t0 [0x01]).trace ++ [.sel, .w 0x02, .r 0x01, .dsl]) = true ∧
    0 ≤ [Event.sel, .w 0x02, .r 0x01, .dsl].length ∧ 4 ≤ [Event.sel, .w 0x02, .r 0x01, .dsl].length := by decide

theorem witness_RequestShowsAwaitingReady1 :
    (start t0 []).busy = false ∧ (62 : Byte).toNat ≤ 62 ∧ (1 : BitVec 16) ≠ 0 ∧ 0 < 4 ∧ 3 < 4 ∧
    encodeWord (.cmd 1 1000) = 0x03E8010D := by decide

theorem witness_EveryStepKeepsTheInvariant :
    let s : State := { staged [0x02] (start t1 []) with host := [.write .cmdw 0x00000107 []] }
    Inv s ∧ ∃ t, step s = .next t :=
  ⟨⟨by decide, by decide, by decide, by decide⟩, _, rfl⟩

theorem witness_ParametersNeverChange :
    ∃ t, step { start t1 [] with host := [.write .cmdw 0x0000000B []] } = .next t := ⟨_, rfl⟩

theorem witness_TraceOnlyGrows : ∃ t, step { start t1 [] with trace := [.sel], host := [.reset] } = .next t :=
  ⟨_, rfl⟩

theorem witness_HostActsNeverStopTheMachine :
    OnlyHostActs { start t0 [] with host := [.read .status, .reset] } := by
  intro bytes h
  simp at h

/-- Bytes that are no wire format, and bytes that are a command word. -/
theorem witness_StepStopsOnlyOnUnknownWireBytes :
    decode [0x00] = .reject .badLength ∧ decode [0x01, 0x00, 0x00, 0x00] = .ok .sel ∧ isWireFormat .sel = false := by
  decide

theorem witness_NoStepDependsOnThePlatform :
    ∃ t, step { start t1 [] with host := [.write .cmdw 0x0000000A []] } = .next t := ⟨_, rfl⟩

end Sys2Proof.Tests
end

section
/-! SUPPORT. No part of the step looks at TICK, HOST_BASE or HOST_STRIDE: from the operations on the state over the
programs, run to their end (`Prog.run_onPlatform`) or beside the host, to the host's acts. -/

namespace Sys2Proof.Machine

/-! ### The operations on the state -/

theorem writeSlots_onPlatform (x y z : Nat) (bits : List Bool) (s : State) :
    writeSlots bits (onPlatform x y z s) = onPlatform x y z (writeSlots bits s) := by
  rw [writeSlots_eq, writeSlots_eq]; rfl

theorem readSlots_onPlatform (x y z : Nat) (levels : List Bool) (s : State) :
    readSlots levels (onPlatform x y z s) = onPlatform x y z (readSlots levels s) := by
  rw [readSlots_eq, readSlots_eq]; rfl

theorem setRxinfo_onPlatform (x y z : Nat) (d : Decoded) (s : State) :
    setRxinfo d (onPlatform x y z s) = onPlatform x y z (setRxinfo d s) := by
  cases d <;> rfl

theorem supply_onPlatform (x y z : Nat) (bytes : List Byte) (s : State) :
    supply bytes (onPlatform x y z s) = onPlatform x y z (supply bytes s) := rfl

theorem accept_onPlatform (x y z : Nat) (s : State) :
    accept (onPlatform x y z s) = onPlatform x y z (accept s) := rfl

theorem overrun_onPlatform (x y z : Nat) (s : State) :
    overrun (onPlatform x y z s) = onPlatform x y z (overrun s) := rfl

theorem requeue_onPlatform (x y z : Nat) (acts : List BusyAct) (s : State) :
    requeue acts (onPlatform x y z s) = onPlatform x y z (requeue acts s) := rfl

theorem hardReset_onPlatform (x y z : Nat) (s : State) :
    hardReset (onPlatform x y z s) = onPlatform x y z (hardReset s) := rfl

/-- Registers are read by number, so their placement does not show (log entry 14). -/
theorem answer_onPlatform (x y z : Nat) (r : Reg) (s : State) :
    answer r (onPlatform x y z s) = onPlatform x y z (answer r s) := by
  cases r <;> rfl

theorem writeWhileBusy_onPlatform (x y z : Nat) (r : Reg) (s : State) :
    writeWhileBusy r (onPlatform x y z s) = onPlatform x y z (writeWhileBusy r s) := by
  cases r <;> rfl

/-! ### Programs -/

/-- The wait looks at STATUS_REQ alone: it counts its delays in TICK and not in time (log entry 13). -/
theorem waitLoop_onPlatform (x y z T fuel elapsed : Nat) (next : Bool → Prog) (s : State) :
    waitLoop (onPlatform x y z s).par T fuel elapsed next = waitLoop s.par T fuel elapsed next := by
  induction fuel generalizing elapsed with
  | zero => rfl
  | succ fuel ih => simp only [waitLoop_succ, ih]; rfl

theorem waitReady_onPlatform (x y z T : Nat) (next : Bool → Prog) (s : State) :
    waitReady (onPlatform x y z s).par T next = waitReady s.par T next :=
  waitLoop_onPlatform x y z T _ 0 next s

theorem wrdyProg_onPlatform (x y z : Nat) (t : BitVec 16) (s : State) :
    wrdyProg (onPlatform x y z s).par t = wrdyProg s.par t := by
  simp only [wrdyProg, waitReady_onPlatform]

theorem cmdAfterWait1_onPlatform (x y z : Nat) (t : BitVec 16) (s : State) :
    cmdAfterWait1 (onPlatform x y z s).par t = cmdAfterWait1 s.par t := by
  funext ready
  simp only [cmdAfterWait1, waitReady_onPlatform]
  rfl

theorem cmdProg_onPlatform (x y z : Nat) (len : Byte) (t : BitVec 16) (s : State) :
    cmdProg (onPlatform x y z s).par len t = cmdProg s.par len t := by
  simp only [cmdProg, waitReady_onPlatform, cmdAfterWait1_onPlatform]
  rfl

/-- Of the parameters an instruction's program holds BUF_CAP, STATUS_REQ, TX_PREFIX and RX_PREFIX alone. -/
theorem program_onPlatform (x y z : Nat) (i : Instr) (s : State) :
    program i (onPlatform x y z s).par = program i s.par := by
  cases i with
  | wrdy t => exact wrdyProg_onPlatform x y z t s
  | cmd len t => exact cmdProg_onPlatform x y z len t s
  | _ => rfl

theorem Prog.cutByte_onPlatform (pr : Prog) (x y z slots : Nat) (s : State) :
    pr.cutByte slots (onPlatform x y z s) = onPlatform x y z (pr.cutByte slots s) := by
  cases pr with
  | write b next => exact writeSlots_onPlatform x y z _ s
  | read next => exact readSlots_onPlatform x y z _ s
  | _ => rfl

/-- A program looked at on the way there has come as far, to the same rest. -/
theorem Prog.advance_onPlatform (pr : Prog) (x y z k : Nat) (s : State) :
    pr.advance k (onPlatform x y z s) = (onPlatform x y z (pr.advance k s).1, (pr.advance k s).2) := by
  induction pr generalizing k s with
  | finish c => cases k <;> rfl
  | done => cases k <;> rfl
  | select next ih => cases k with | zero => rfl | succ k => exact ih k (Machine.select s)
  | deselect next ih => cases k with | zero => rfl | succ k => exact ih k (Machine.deselect s)
  | write b next ih =>
    cases k with
    | zero => rfl
    | succ k => rw [Prog.advance, spiWrite_onPlatform]; exact ih k (spiWrite b s)
  | read next ih =>
    cases k with
    | zero => rfl
    | succ k => rw [Prog.advance, spiRead_onPlatform]; exact ih _ k (spiRead s)
  | delay n next ih => cases k with | zero => rfl | succ k => exact ih k (Machine.delay n s)
  | ready v next ih => cases k <;> exact ih _ (setReady v s)
  | eng e next ih => cases k <;> exact ih _ (setEng e s)
  | rdata b next ih => cases k <;> exact ih _ (setRdata b s)
  | rxinfo d next ih => simp only [Prog.advance, setRxinfo_onPlatform, ih]
  | store i b next ih => cases k <;> exact ih _ (bufStore i b s)
  | load i next ih => cases k <;> exact ih _ _ s

theorem runBusy_onPlatform (x y z : Nat) (acts : List BusyAct) (pr : Prog) (s : State) :
    runBusy acts pr (onPlatform x y z s) = onPlatform x y z (runBusy acts pr s) := by
  induction acts generalizing pr s with
  | nil => exact pr.run_onPlatform x y z s
  | cons a acts ih =>
    simp only [runBusy, pr.advance_onPlatform]
    rcases pr.advance a.after s with ⟨t, _ | rest⟩
    · exact requeue_onPlatform x y z (a :: acts) t
    · cases a.touch with
      | read r => simp only [answer_onPlatform, ih]
      | write r w => simp only [writeWhileBusy_onPlatform, ih]
      | reset slots => simp only [Prog.cutByte_onPlatform, hardReset_onPlatform, requeue_onPlatform]

/-! ### The step -/

/-- Every instruction runs its program to the end, the device having been given the bytes that the row says are its
own: none for a command word. -/
theorem exec_eq_run_supply (i : Instr) :
    ∃ bytes, ∀ s, exec i s = .next ((program i s.par).run (supply bytes s)) := by
  cases hi : isWireFormat i with
  | false => exact ⟨[], fun s => exec_eq_run i s hi⟩
  | true =>
    cases i with
    | frame dir payload =>
      cases dir with
      | hostToDevice => exact ⟨[], fun _ => rfl⟩
      | deviceToHost => exact ⟨Machine.frame dirDeviceToHost payload, fun _ => rfl⟩
    | ack => exact ⟨ackBytes, fun _ => rfl⟩
    | statusExchange q r => exact ⟨[r], fun _ => rfl⟩
    | _ => cases hi

/-- A part of the step that, on another platform, answers the same state but for the platform's parameters. -/
def PlatformBlind (x y z : Nat) (f : State → Result) : Prop :=
  ∀ s t, f s = .next t → f (onPlatform x y z s) = .next (onPlatform x y z t)

/-- What always answers a next state is blind to the platform if the state it answers is. -/
theorem PlatformBlind.of_next {x y z : Nat} {g : State → State}
    (h : ∀ s, g (onPlatform x y z s) = onPlatform x y z (g s)) : PlatformBlind x y z fun s => .next (g s) := by
  rintro s t ⟨⟩
  exact congrArg _ (h s)

theorem platformBlind_exec (x y z : Nat) (i : Instr) : PlatformBlind x y z (exec i) := by
  obtain ⟨bytes, h⟩ := exec_eq_run_supply i
  rw [funext h]
  refine .of_next fun s => ?_
  rw [program_onPlatform, supply_onPlatform, Prog.run_onPlatform]

/-- While BUSY = 1 a command word is dropped (spec/10_state R18). -/
theorem issue_of_busy {s : State} (h : s.busy = true) (w : Word) (meanwhile : List BusyAct) :
    issue w meanwhile s = .next (requeue meanwhile (overrun s)) := by
  simp only [issue, h, if_true]

/-- Otherwise it runs its program with the host beside it, also where the host does nothing meanwhile. -/
theorem issue_of_idle {s : State} (h : s.busy = false) (w : Word) (meanwhile : List BusyAct) :
    issue w meanwhile s = .next (runBusy meanwhile (program (decodeWord w) s.par) (accept s)) := by
  unfold issue
  rw [if_neg (by simp [h])]
  cases meanwhile with
  | nil => exact exec_eq_run _ _ (isWireFormat_decodeWord w)
  | cons a acts => rfl

theorem platformBlind_issue (x y z : Nat) (w : Word) (meanwhile : List BusyAct) :
    PlatformBlind x y z (issue w meanwhile) := by
  intro s t h
  cases hb : s.busy with
  | false =>
    rw [issue_of_idle hb] at h
    cases h
    rw [issue_of_idle (s := onPlatform x y z s) hb, program_onPlatform, accept_onPlatform, runBusy_onPlatform]
  | true =>
    rw [issue_of_busy hb] at h
    cases h
    rw [issue_of_busy (s := onPlatform x y z s) hb, overrun_onPlatform, requeue_onPlatform]

/-- Bytes on the wire answer a next state only as one of the wire formats, by its meaning (log entries 6, 17). -/
theorem wireTransaction_eq_next_iff (bytes : List Byte) (s t : State) :
    wireTransaction bytes s = .next t ↔ ∃ i, decode bytes = .ok i ∧ isWireFormat i = true ∧ exec i s = .next t := by
  unfold wireTransaction
  cases decode bytes with
  | ok i => cases hi : isWireFormat i <;> simp [hi]
  | reject r => simp

theorem platformBlind_wireTransaction (x y z : Nat) (bytes : List Byte) :
    PlatformBlind x y z (wireTransaction bytes) := by
  intro s t h
  obtain ⟨i, hdecode, hwire, hexec⟩ := (wireTransaction_eq_next_iff bytes s t).1 h
  exact (wireTransaction_eq_next_iff bytes _ _).2 ⟨i, hdecode, hwire, platformBlind_exec x y z i s t hexec⟩

theorem platformBlind_hostAct (x y z : Nat) (a : HostAct) : PlatformBlind x y z (hostAct a) := by
  cases a with
  | read r => exact .of_next (answer_onPlatform x y z r)
  | write r w meanwhile =>
    cases r with
    | cmdw => exact platformBlind_issue x y z w meanwhile
    | _ => exact .of_next (requeue_onPlatform x y z meanwhile)
  | reset => exact .of_next (hardReset_onPlatform x y z)
  | wire bytes => exact platformBlind_wireTransaction x y z bytes

/-- With no act of the host left a step leaves the state as it is (log entry 16). -/
theorem step_of_host_nil {s : State} (h : s.host = []) : step s = .next s := by
  rw [step, nextAct, h]

theorem step_of_host_cons {s : State} {a : HostAct} {later : List HostAct} (h : s.host = a :: later) :
    step s = hostAct a { s with host := later } := by
  rw [step, nextAct, h]

theorem platformBlind_step (x y z : Nat) : PlatformBlind x y z step := by
  intro s t h
  cases hhost : s.host with
  | nil =>
    rw [step_of_host_nil hhost] at h
    cases h
    exact step_of_host_nil hhost
  | cons a later =>
    rw [step_of_host_cons hhost] at h
    rw [step_of_host_cons (s := onPlatform x y z s) hhost]
    exact platformBlind_hostAct x y z a { s with host := later } t h

end Sys2Proof.Machine

/-- Settles O59: the host's next act, and every program it starts, is blind to the platform. -/
theorem noStepDependsOnThePlatform : Obligations.NoStepDependsOnThePlatform := by
  intro s t tick hostBase hostStride h
  exact Sys2Proof.Machine.platformBlind_step tick hostBase hostStride s t h
end

section
/-! SUPPORT. What a program may write (`Prog.Fits`), one lemma for each procedure of the pseudocode, and what that says
of every run of it: to its end, for some events, beside the host. -/

namespace Sys2Proof.Machine

/-! ### What a program writes -/

/-- What a program can write beside the pins, and how it can end. -/
inductive Effect where
  /-- ENG. -/
  | eng
  /-- READY. -/
  | ready
  /-- RDATA. -/
  | rdata
  /-- RXINFO. -/
  | rxinfo
  /-- One byte of BUF. -/
  | store (i : Nat)
  /-- The end of an operation, which writes RESULT and BUSY. -/
  | finish
  /-- The end of a procedure that is no operation. -/
  | done

/-- A program writes nothing but what `w` allows, and writes RDATA and RXINFO only as the last thing before it
finishes. -/
def Prog.Fits (w : Effect → Prop) : Prog → Prop
  | .finish _ => w .finish
  | .done => w .done
  | .select next | .deselect next | .write _ next | .delay _ next => next.Fits w
  | .read next | .load _ next => ∀ b, (next b).Fits w
  | .ready _ next => w .ready ∧ next.Fits w
  | .eng _ next => w .eng ∧ next.Fits w
  | .rdata _ next => w .rdata ∧ w .finish ∧ ∃ c, next = .finish c
  | .rxinfo _ next => w .rxinfo ∧ w .finish ∧ ∃ c, next = .finish c
  | .store i _ next => w (.store i) ∧ next.Fits w

variable {w : Effect → Prop} {p : Config.Params}

theorem Prog.Fits.finish {c : Code} (h : w .finish) : (Prog.finish c).Fits w := h
theorem Prog.Fits.done (h : w .done) : Prog.done.Fits w := h
theorem Prog.Fits.select {next : Prog} (h : next.Fits w) : (Prog.select next).Fits w := h
theorem Prog.Fits.deselect {next : Prog} (h : next.Fits w) : (Prog.deselect next).Fits w := h
theorem Prog.Fits.write {b : Byte} {next : Prog} (h : next.Fits w) : (Prog.write b next).Fits w := h
theorem Prog.Fits.read {next : Byte → Prog} (h : ∀ b, (next b).Fits w) : (Prog.read next).Fits w := h
theorem Prog.Fits.load {i : Nat} {next : Byte → Prog} (h : ∀ b, (next b).Fits w) : (Prog.load i next).Fits w := h
theorem Prog.Fits.eng {e : Eng} {next : Prog} (hw : w .eng) (h : next.Fits w) : (Prog.eng e next).Fits w := ⟨hw, h⟩
theorem Prog.Fits.rdata {b : Byte} {c : Code} (hw : w .rdata) (hf : w .finish) :
    (Prog.rdata b (.finish c)).Fits w := ⟨hw, hf, c, rfl⟩
theorem Prog.Fits.rxinfo {d : Decoded} {c : Code} (hw : w .rxinfo) (hf : w .finish) :
    (Prog.rxinfo d (.finish c)).Fits w := ⟨hw, hf, c, rfl⟩
theorem Prog.Fits.store {i : Nat} {b : Byte} {next : Prog} (hw : w (.store i)) (h : next.Fits w) :
    (Prog.store i b next).Fits w := ⟨hw, h⟩

theorem Prog.Fits.writes {bs : List Byte} {next : Prog} (h : next.Fits w) : (Prog.writes bs next).Fits w := by
  induction bs with
  | nil => exact h
  | cons b bs ih => exact ih

theorem Prog.Fits.reads {n : Nat} {next : List Byte → Prog} (h : ∀ bs, (next bs).Fits w) :
    (Prog.reads n next).Fits w := by
  induction n generalizing next with
  | zero => exact h []
  | succ n ih => exact fun b => ih fun bs => h (b :: bs)

theorem Prog.Fits.loads {i n : Nat} {next : List Byte → Prog} (h : ∀ bs, (next bs).Fits w) :
    (Prog.loads i n next).Fits w := by
  induction n generalizing i next with
  | zero => exact h []
  | succ n ih => exact fun b => ih fun bs => h (b :: bs)

theorem Prog.Fits.sendPayload {i n : Nat} {sum : Byte} {next : Byte → Prog} (h : ∀ c, (next c).Fits w) :
    (Machine.sendPayload i n sum next).Fits w := by
  induction n generalizing i sum with
  | zero => exact h sum
  | succ n ih => exact fun b => ih

theorem Prog.Fits.txFrame {d : Byte} {len : Nat} {next : Prog} (h : next.Fits w) :
    (Machine.txFrame p d len next).Fits w :=
  .select <| .writes <| .writes <| .write <| .write <| .write <|
    .sendPayload fun _ => .write <| .write <| .deselect h

theorem Prog.Fits.statusPollWith {q : Byte} {next : Byte → Prog} (hw : w .ready) (h : ∀ v, (next v).Fits w) :
    (Machine.statusPollWith q next).Fits w := fun v => ⟨hw, h v⟩

theorem Prog.Fits.waitLoop {T fuel elapsed : Nat} {next : Bool → Prog} (hw : w .ready) (h : ∀ r, (next r).Fits w) :
    (Machine.waitLoop p T fuel elapsed next).Fits w := by
  induction fuel generalizing elapsed with
  | zero => exact h false
  | succ fuel ih =>
    rw [waitLoop_succ]
    refine .statusPollWith hw fun v => ?_
    split
    · exact h true
    · split
      · exact h false
      · exact ih

theorem Prog.Fits.waitReady {T : Nat} {next : Bool → Prog} (hw : w .ready) (h : ∀ r, (next r).Fits w) :
    (Machine.waitReady p T next).Fits w := .waitLoop hw h

theorem Prog.Fits.readAck {next : Bool → Prog} (h : ∀ good, (next good).Fits w) : (Machine.readAck p next).Fits w :=
  .select <| .writes <| .reads fun _ => .deselect (h _)

theorem Prog.Fits.readInto {i n : Nat} {next : Prog} (hw : ∀ k, i ≤ k → k < i + n → w (.store k))
    (h : next.Fits w) : (Machine.readInto i n next).Fits w := by
  induction n generalizing i with
  | zero => exact h
  | succ n ih =>
    exact fun b => ⟨hw i (by omega) (by omega), ih fun k hk hn => hw k (by omega) (by omega)⟩

theorem Prog.Fits.rawRead {n : Nat} {next : Prog} (hw : ∀ k, k < n → w (.store k)) (h : next.Fits w) :
    (Machine.rawRead p n next).Fits w :=
  .select <| .writes <| .readInto (fun k _ hk => hw k (by omega)) (.deselect h)

theorem Prog.Fits.decodeBuf {n : Nat} (hx : w .rxinfo) (hf : w .finish) : (Machine.decodeBuf n).Fits w :=
  .loads fun _ => .rxinfo hx hf

/-- What each instruction may write: the registers by the operations their rules name (spec/10_state R14, R16, R20,
R21), BUF below its capacity (R22, spec/20_memory R41); a command word's instruction finishes, a wire-format row does
not (log entry 6). -/
def mayWrite (p : Config.Params) (i : Instr) : Effect → Prop
  | .eng => ∃ len T, i = .cmd len T
  | .ready => i = .poll ∨ (∃ T, i = .wrdy T) ∨ (∃ len T, i = .cmd len T) ∨ ∃ q r, i = .statusExchange q r
  | .rdata => i = .rdb ∨ (∃ x, i = .ldb x) ∨ i = .poll
  | .rxinfo => (∃ n, i = .dec n) ∨ ∃ n, i = .rdf n
  | .store k => k < p.bufCap ∧ ((∃ x v, i = .stb x v) ∨ (∃ n, i = .rdf n) ∨ isWireFormat i = true)
  | .finish => isWireFormat i = false
  | .done => isWireFormat i = true

/-- Where the operand is turned away the program is `finish`, and fits as soon as it may finish. -/
theorem Prog.Fits.ite_finish {bad : Bool} {c : Code} {pr : Prog} (hf : w .finish) (h : bad = false → pr.Fits w) :
    (if bad = true then .finish c else pr).Fits w := by
  cases bad with
  | false => exact h rfl
  | true => exact hf

theorem cmdAfterWait1_fits {T : BitVec 16} (he : w .eng) (hr : w .ready) (hf : w .finish) (ready : Bool) :
    (cmdAfterWait1 p T ready).Fits w := by
  cases ready with
  | false => exact .eng he (.finish hf)
  | true =>
    rw [cmdAfterWait1, if_neg (by decide)]
    refine .readAck fun good => ?_
    cases good with
    | false => exact .eng he (.finish hf)
    | true =>
      refine .eng he <| .eng he <| .waitReady hr fun again => ?_
      cases again <;> exact .eng he (.finish hf)

/-- The program of every instruction writes what `mayWrite` says. -/
theorem program_fits (i : Instr) (p : Config.Params) : (program i p).Fits (mayWrite p i) := by
  cases i with
  | sel => exact .select (.finish rfl)
  | dsl => exact .deselect (.finish rfl)
  | wrb v => exact .write (.finish rfl)
  | rdb => exact .read fun v => .rdata (.inl rfl) rfl
  | stb idx v =>
    refine .ite_finish rfl fun h => .store ⟨?_, .inl ⟨_, _, rfl⟩⟩ (.finish rfl)
    simpa [badIndex] using h
  | ldb idx => exact .ite_finish rfl fun _ => .load fun b => .rdata (.inr (.inl ⟨_, rfl⟩)) rfl
  | txc len => exact .ite_finish rfl fun _ => .txFrame (.finish rfl)
  | dec n => exact .ite_finish rfl fun _ => .decodeBuf (.inl ⟨_, rfl⟩) rfl
  | poll => exact .statusPollWith (.inl rfl) fun v => .rdata (.inr (.inr rfl)) rfl
  | wrdy T =>
    refine .ite_finish rfl fun _ => .waitReady (.inr (.inl ⟨_, rfl⟩)) fun ready => ?_
    cases ready <;> exact .finish rfl
  | rack =>
    rw [program, rackProg]
    refine .readAck fun good => ?_
    cases good <;> exact .finish rfl
  | rdf n =>
    refine .ite_finish rfl fun h => .rawRead (fun k hk => ⟨?_, .inr (.inl ⟨_, rfl⟩)⟩) (.decodeBuf (.inr ⟨_, rfl⟩) rfl)
    simp only [badCount, Bool.or_eq_false_iff, decide_eq_false_iff_not] at h
    omega
  | cmd len T =>
    have he : mayWrite p (.cmd len T) .eng := ⟨len, T, rfl⟩
    have hr : mayWrite p (.cmd len T) .ready := .inr (.inr (.inl ⟨len, T, rfl⟩))
    exact .ite_finish rfl fun _ =>
      .eng he <| .txFrame <| .eng he <| .eng he <| .waitReady hr (cmdAfterWait1_fits he hr rfl)
  | reservedOp0 | reservedOpE | reservedOpF | reservedHighNibble => exact .finish rfl
  | frame dir payload =>
    cases dir with
    | hostToDevice => exact .select <| .writes <| .writes <| .deselect (.done rfl)
    | deviceToHost => exact .rawRead (fun k hk => ⟨by omega, .inr (.inr rfl)⟩) (.done rfl)
  | ack =>
    rw [program, ackProg]
    exact .readAck fun _ => .done rfl
  | statusExchange q r => exact .statusPollWith (.inr (.inr (.inr ⟨_, _, rfl⟩))) fun _ => .done rfl

/-! ### What a run changes -/

/-- One thing a program does, allowed by `w`. -/
inductive Prim (w : Effect → Prop) : State → State → Prop
  | wired {s t : State} {es : List Event} (h : Wired s t es) : Prim w s t
  | ready {s : State} (v : Byte) (h : w .ready) : Prim w s (setReady v s)
  | eng {s : State} (e : Eng) (h : w .eng) : Prim w s (setEng e s)
  | rdata {s : State} (b : Byte) (h : w .rdata) : Prim w s (setRdata b s)
  | rxinfo {s : State} (d : Decoded) (h : w .rxinfo) : Prim w s (setRxinfo d s)
  | store {s : State} (i : Nat) (b : Byte) (h : w (.store i)) : Prim w s (bufStore i b s)
  | finish {s : State} (c : Code) (h : w .finish) : Prim w s (Machine.finish c s)

/-- Some things a program does one after the other. -/
abbrev Ran (w : Effect → Prop) : State → State → Prop := Relation.ReflTransGen (Prim w)

/-- What RDATA and RXINFO hold. -/
def reports (s : State) : Byte × Byte × Byte × Bool := (s.rdata, s.rxDir, s.rxLen, s.rxValid)

theorem Wired.reports {s t : State} {es : List Event} (h : Wired s t es) : reports t = reports s := by
  simp [Machine.reports, h.kept.rdata, h.kept.rxDir, h.kept.rxLen, h.kept.rxValid]

/-- A program run from `s` as far as `t`, with `rest` still to run: what it did and what is left fit `w`; RDATA and
RXINFO are as they were unless no event is left; and where no event is left they are as they will be. -/
structure Advanced (w : Effect → Prop) (s t : State) (rest : Option Prog) : Prop where
  ran : Ran w s t
  fits : ∀ pr ∈ rest, pr.Fits w
  early : ∀ pr ∈ rest, (pr.run t).trace ≠ t.trace → reports t = reports s
  late : ∀ pr ∈ rest, (pr.run t).trace = t.trace → reports (pr.run t) = reports t

theorem Advanced.cons {s t u : State} {rest : Option Prog} (h : Prim w s t) (hr : reports t = reports s)
    (k : Advanced w t u rest) : Advanced w s u rest where
  ran := k.ran.head h
  fits := k.fits
  early := fun pr hpr hne => (k.early pr hpr hne).trans hr
  late := k.late

theorem Advanced.wired {s t u : State} {es : List Event} {rest : Option Prog} (h : Wired s t es)
    (k : Advanced w t u rest) : Advanced w s u rest := k.cons (.wired h) h.reports

/-- A program stands before its first event. -/
theorem Advanced.before_event {s t : State} {e : Event} {next pr : Prog} (h : Wired s t [e])
    (hrun : pr.run s = next.run t) (hf : pr.Fits w) : Advanced w s s (some pr) where
  ran := .refl
  fits := by rintro _ ⟨⟩; exact hf
  early := fun _ _ _ => rfl
  late := by
    rintro _ ⟨⟩ htrace
    obtain ⟨es, hes⟩ := next.run_traffic t
    rw [hrun, hes.trace, h.traffic.trace] at htrace
    simp at htrace

/-- What is left of a program is to finish. -/
theorem Advanced.at_finish {s t : State} (h : Ran w s t) (hf : w .finish) (c : Code) (k : Nat) :
    Advanced w s ((Prog.finish c).advance k t).1 ((Prog.finish c).advance k t).2 := by
  cases k with
  | zero => exact ⟨h, by rintro _ ⟨⟩; exact hf, by rintro _ ⟨⟩ hne; exact absurd rfl hne, by rintro _ ⟨⟩ _; rfl⟩
  | succ k => exact ⟨h.tail (.finish c hf), nofun, nofun, nofun⟩

/-- Run for any number of events, a program that fits has done and will do what `w` allows. -/
theorem Prog.Fits.advance {pr : Prog} (hf : pr.Fits w) (k : Nat) (s : State) :
    Advanced w s (pr.advance k s).1 (pr.advance k s).2 := by
  induction pr generalizing k s with
  | finish c => exact .at_finish .refl hf c k
  | done =>
    cases k with
    | zero => exact ⟨.refl, by rintro _ ⟨⟩; exact hf, fun _ _ _ => rfl, by rintro _ ⟨⟩ _; rfl⟩
    | succ k => exact ⟨.refl, nofun, nofun, nofun⟩
  | select next ih =>
    cases k with
    | zero => exact .before_event (wired_select s) rfl hf
    | succ k => exact .wired (wired_select s) (ih hf k _)
  | deselect next ih =>
    cases k with
    | zero => exact .before_event (wired_deselect s) rfl hf
    | succ k => exact .wired (wired_deselect s) (ih hf k _)
  | write b next ih =>
    cases k with
    | zero => exact .before_event (wired_spiWrite b s) rfl hf
    | succ k => exact .wired (wired_spiWrite b s) (ih hf k _)
  | read next ih =>
    cases k with
    | zero => exact .before_event (wired_spiRead s) rfl hf
    | succ k => exact .wired (wired_spiRead s) (ih _ (hf _) k _)
  | delay n next ih =>
    cases k with
    | zero => exact .before_event (wired_delay n s) rfl hf
    | succ k => exact .wired (wired_delay n s) (ih hf k _)
  | ready v next ih => exact .cons (.ready v hf.1) rfl (ih hf.2 k (setReady v s))
  | eng e next ih => exact .cons (.eng e hf.1) rfl (ih hf.2 k (setEng e s))
  | rdata b next ih =>
    obtain ⟨hw, hfin, c, rfl⟩ := hf
    exact .at_finish (.single (.rdata b hw)) hfin c k
  | rxinfo d next ih =>
    obtain ⟨hw, hfin, c, rfl⟩ := hf
    exact .at_finish (.single (.rxinfo d hw)) hfin c k
  | store i b next ih => exact .cons (.store i b hf.1) rfl (ih hf.2 k (bufStore i b s))
  | load i next ih => exact ih _ (hf _) k s

end Sys2Proof.Machine
end

section
/-! SUPPORT. What every run of a program, and so every step, keeps. -/

namespace Sys2Proof.Machine

variable {w : Effect → Prop}

/-- A program that fits, run to its end, did what `w` allows. -/
theorem Prog.Fits.run {pr : Prog} (hf : pr.Fits w) (s : State) : Ran w s (pr.run s) := by
  obtain ⟨es, hes⟩ := pr.run_traffic s
  have h := (hf.advance (es.length + 1) s).ran
  rwa [pr.advance_end _ s es hes.trace (Nat.lt_succ_self _)] at h

/-- What one thing a program does keeps, all of them keep. -/
theorem Ran.keeps {α : Type} {f : State → α} {s t : State} (h : Ran w s t)
    (hf : ∀ {u v}, Prim w u v → f v = f u) : f t = f s := by
  induction h with
  | refl => rfl
  | tail _ hp ih => exact (hf hp).trans ih

/-! ### Registers a program may not write -/

theorem Ran.eng {s t : State} (h : Ran w s t) (hw : ¬ w .eng) : t.eng = s.eng := by
  refine h.keeps fun hp => ?_
  cases hp with
  | wired h => exact h.kept.eng
  | eng e h => exact absurd h hw
  | rxinfo d _ => exact setRxinfo_eng d _
  | _ => rfl

theorem Ran.ready {s t : State} (h : Ran w s t) (hw : ¬ w .ready) : t.ready = s.ready := by
  refine h.keeps fun hp => ?_
  cases hp with
  | wired h => exact h.kept.ready
  | ready v h => exact absurd h hw
  | rxinfo d _ => exact setRxinfo_ready d _
  | _ => rfl

theorem Ran.rdata {s t : State} (h : Ran w s t) (hw : ¬ w .rdata) : t.rdata = s.rdata := by
  refine h.keeps fun hp => ?_
  cases hp with
  | wired h => exact h.kept.rdata
  | rdata b h => exact absurd h hw
  | rxinfo d _ => exact setRxinfo_rdata d _
  | _ => rfl

theorem Ran.rxinfo {s t : State} (h : Ran w s t) (hw : ¬ w .rxinfo) : RxinfoKept s t := by
  have key : (t.rxDir, t.rxLen, t.rxValid) = (s.rxDir, s.rxLen, s.rxValid) := by
    refine h.keeps (f := fun s => (s.rxDir, s.rxLen, s.rxValid)) fun hp => ?_
    cases hp with
    | wired h => simp [h.kept.rxDir, h.kept.rxLen, h.kept.rxValid]
    | rxinfo d h => exact absurd h hw
    | _ => rfl
  simp only [Prod.mk.injEq] at key
  exact ⟨key.1, key.2.1, key.2.2⟩

theorem Ran.buf {s t : State} (h : Ran w s t) (hw : ∀ i, ¬ w (.store i)) : t.buf = s.buf := by
  refine h.keeps fun hp => ?_
  cases hp with
  | wired h => exact h.kept.buf
  | store i b h => exact absurd h (hw i)
  | rxinfo d _ => exact setRxinfo_buf d _
  | _ => rfl

theorem Ran.busy {s t : State} (h : Ran w s t) (hw : ¬ w .finish) : t.busy = s.busy := by
  refine h.keeps fun hp => ?_
  cases hp with
  | wired h => exact h.kept.busy
  | finish c h => exact absurd h hw
  | rxinfo d _ => exact setRxinfo_busy d _
  | _ => rfl

/-- A program that can only end by `finish` leaves BUSY = 0. -/
theorem Prog.Fits.run_busy {pr : Prog} (hf : pr.Fits w) (hw : ¬ w .done) (s : State) : (pr.run s).busy = false := by
  induction pr generalizing s with
  | finish c => rfl
  | done => exact absurd hf hw
  | select next ih | deselect next ih | write b next ih | delay n next ih => exact ih hf _
  | read next ih | load i next ih => exact ih _ (hf _) _
  | ready v next ih | eng e next ih | store i b next ih => exact ih hf.2 _
  | rdata b next ih | rxinfo d next ih => obtain ⟨_, _, c, rfl⟩ := hf; rfl

/-! ### The invariant, the parameters and the trace -/

/-- What everything that happens in a step does: it keeps the parameters, takes no event off the trace, and keeps the
invariant but for BUSY, which rises and falls within the step (log entry 10). -/
structure Steady (s t : State) : Prop where
  par : t.par = s.par
  trace : s.trace <+: t.trace
  inv : Inv (withBusy false s) → Inv (withBusy false t)

theorem Steady.trans {s t u : State} (h : Steady s t) (k : Steady t u) : Steady s u :=
  ⟨k.par.trans h.par, h.trace.trans k.trace, fun hs => k.inv (h.inv hs)⟩

theorem Steady.of_fields {s t : State} (par : t.par = s.par) (trace : t.trace = s.trace) (buf : t.buf = s.buf)
    (sck : t.sck = s.sck) : Steady s t where
  par := par
  trace := trace ▸ List.prefix_rfl
  inv := fun ⟨hwf, hin, _, hsck⟩ =>
    ⟨by simpa [withBusy, buf] using hwf, by simpa [withBusy, buf, par] using hin, rfl,
      by simpa [withBusy, sck, par] using hsck⟩

/-- SCK at rest is at rest again after any events (spec/40_bus_transport R91). -/
theorem sckAfter_at_rest (p : Config.Params) (es : List Event) : sckAfter p p.cpol es = p.cpol := by
  induction es with
  | nil => rfl
  | cons e es ih => cases e <;> exact ih

theorem Wired.steady {s t : State} {es : List Event} (h : Wired s t es) : Steady s t where
  par := h.traffic.par
  trace := ⟨es, h.traffic.trace.symm⟩
  inv := by
    rintro ⟨hwf, hin, _, hsck⟩
    have hsck : s.sck = s.par.cpol := hsck
    refine ⟨by simpa [withBusy, h.kept.buf] using hwf, ?_, rfl, ?_⟩
    · simpa [withBusy, h.kept.buf, h.traffic.par] using hin
    · show t.sck = t.par.cpol
      rw [h.traffic.sck, h.traffic.par, hsck, sckAfter_at_rest]

/-- A byte stored below the capacity keeps BUF canonical and inside it. -/
theorem steady_bufStore {i : Nat} {s : State} (b : Byte) (hi : i < s.par.bufCap) : Steady s (bufStore i b s) where
  par := rfl
  trace := List.prefix_rfl
  inv := fun ⟨hwf, hin, _, hsck⟩ => ⟨Memory.wf_set _ _ _ hwf, Memory.within_set _ _ hin hi, rfl, hsck⟩

/-- Reset: BUF unwritten, SCK at its rest level, whatever stood before but for the parameters and the trace. -/
theorem steady_hardReset {s t : State} (par : t.par = s.par) (trace : s.trace <+: t.trace) :
    Steady s (hardReset t) where
  par := par
  trace := trace
  inv := fun _ => ⟨rfl, rfl, rfl, rfl⟩

theorem Prim.steady {s t : State} (h : Prim w s t) (hw : ∀ i, w (.store i) → i < s.par.bufCap) : Steady s t := by
  cases h with
  | wired h => exact h.steady
  | store i b h => exact steady_bufStore b (hw i h)
  | rxinfo d _ => exact .of_fields (by simp) (by simp) (by simp) (by simp)
  | _ => exact .of_fields rfl rfl rfl rfl

theorem Ran.steady {s t : State} (h : Ran w s t) (hw : ∀ i, w (.store i) → i < s.par.bufCap) : Steady s t := by
  induction h with
  | refl => exact .of_fields rfl rfl rfl rfl
  | tail _ hp ih => exact ih.trans (hp.steady (ih.par ▸ hw))

/-- The slots of a byte that a reset cuts make no event. -/
theorem Prog.cutByte_par_trace (pr : Prog) (slots : Nat) (s : State) :
    (pr.cutByte slots s).par = s.par ∧ (pr.cutByte slots s).trace = s.trace := by
  cases pr with
  | write b next => rw [Prog.cutByte, writeSlots_eq]; exact ⟨rfl, rfl⟩
  | read next => rw [Prog.cutByte, readSlots_eq]; exact ⟨rfl, rfl⟩
  | _ => exact ⟨rfl, rfl⟩

theorem steady_writeWhileBusy (r : Reg) (s : State) : Steady s (writeWhileBusy r s) := by
  cases r <;> exact .of_fields rfl rfl rfl rfl

/-- An operation with the host beside it, cut or not, is steady and ends with BUSY = 0. -/
theorem Prog.Fits.runBusy {pr : Prog} (hf : pr.Fits w) (hd : ¬ w .done) (acts : List BusyAct) (s : State)
    (hw : ∀ i, w (.store i) → i < s.par.bufCap) :
    Steady s (Machine.runBusy acts pr s) ∧ (Machine.runBusy acts pr s).busy = false := by
  induction acts generalizing pr s with
  | nil => exact ⟨(hf.run s).steady hw, hf.run_busy hd s⟩
  | cons a acts ih =>
    have hadv := hf.advance a.after s
    have hrun := pr.advance_run a.after s
    rw [Machine.runBusy]
    rcases he : pr.advance a.after s with ⟨t, _ | rest⟩
    · simp only [he] at hrun
      subst hrun
      exact ⟨((hf.run s).steady hw).trans (.of_fields rfl rfl rfl rfl), hf.run_busy hd s⟩
    · rw [he] at hadv
      have hst : Steady s t := hadv.ran.steady hw
      -- A touch that is no reset lets the rest of the program run on.
      have goOn : ∀ v, Steady t v →
          Steady s (Machine.runBusy acts rest v) ∧ (Machine.runBusy acts rest v).busy = false := fun v htv =>
        have hsv := hst.trans htv
        have ⟨hsteady, hbusy⟩ := ih (hadv.fits rest rfl) v (hsv.par ▸ hw)
        ⟨hsv.trans hsteady, hbusy⟩
      cases a.touch with
      | read r => exact goOn _ (.of_fields rfl rfl rfl rfl)
      | write r x => exact goOn _ (steady_writeWhileBusy r t)
      | reset slots =>
        obtain ⟨hpar, htrace⟩ := rest.cutByte_par_trace slots t
        exact ⟨(steady_hardReset (hpar.trans hst.par) (htrace ▸ hst.trace)).trans (.of_fields rfl rfl rfl rfl), rfl⟩

/-! ### The acts of the host -/

/-- What an act of the host does, said once for each form of it (spec/70_reset_and_hazards R232). -/
inductive Acted (s : State) : HostAct → State → Prop
  | read (r : Reg) : Acted s (.read r) (answer r s)
  | dropped (x : Word) (acts : List BusyAct) (hb : s.busy = true) :
    Acted s (.write .cmdw x acts) (requeue acts (overrun s))
  | issued (x : Word) (acts : List BusyAct) (hb : s.busy = false) :
    Acted s (.write .cmdw x acts) (runBusy acts (program (decodeWord x) s.par) (accept s))
  | ignored (r : Reg) (x : Word) (acts : List BusyAct) (hr : r ≠ .cmdw) : Acted s (.write r x acts) (requeue acts s)
  | reset : Acted s .reset (hardReset s)
  | wire (bytes given : List Byte) (i : Instr) (hi : isWireFormat i = true) :
    Acted s (.wire bytes) ((program i s.par).run (supply given s))

theorem acted_of_hostAct {a : HostAct} {s t : State} (h : hostAct a s = .next t) : Acted s a t := by
  cases a with
  | read r => cases h; exact .read r
  | write r x acts =>
    cases r with
    | cmdw =>
      cases hb : s.busy with
      | true => cases (issue_of_busy hb x acts).symm.trans h; exact .dropped x acts hb
      | false => cases (issue_of_idle hb x acts).symm.trans h; exact .issued x acts hb
    | _ => cases h; exact .ignored _ x acts nofun
  | reset => cases h; exact .reset
  | wire bytes =>
    obtain ⟨i, -, hi, hexec⟩ := (wireTransaction_eq_next_iff bytes s t).1 h
    obtain ⟨given, hgiven⟩ := exec_eq_run_supply i
    cases (hgiven s).symm.trans hexec
    exact .wire bytes given i hi

/-- A step does nothing, or the host's next act. -/
theorem acted_of_step {s t : State} (h : step s = .next t) :
    t = s ∨ ∃ a later, s.host = a :: later ∧ Acted { s with host := later } a t := by
  cases hhost : s.host with
  | nil => cases (step_of_host_nil hhost).symm.trans h; exact .inl rfl
  | cons a later => exact .inr ⟨a, later, rfl, acted_of_hostAct (step_of_host_cons hhost ▸ h)⟩

/-- An act of the host is steady, and leaves BUSY = 0 where it was so. -/
theorem Acted.steady {a : HostAct} {s t : State} (h : Acted s a t) :
    Steady s t ∧ (s.busy = false → t.busy = false) := by
  have hstore : ∀ (i : Instr) k, mayWrite s.par i (.store k) → k < s.par.bufCap := fun _ _ h => h.1
  cases h with
  | read r => exact ⟨.of_fields rfl rfl rfl rfl, id⟩
  | dropped x acts _ => exact ⟨.of_fields rfl rfl rfl rfl, id⟩
  | issued x acts _ =>
    have hdone : ¬ mayWrite s.par (decodeWord x) .done := by simp [mayWrite, isWireFormat_decodeWord]
    obtain ⟨hsteady, hbusy⟩ := (program_fits (decodeWord x) s.par).runBusy hdone acts (accept s) (hstore _)
    exact ⟨.trans (t := accept s) (.of_fields rfl rfl rfl rfl) hsteady, fun _ => hbusy⟩
  | ignored r x acts _ => exact ⟨.of_fields rfl rfl rfl rfl, id⟩
  | reset => exact ⟨steady_hardReset rfl List.prefix_rfl, fun _ => rfl⟩
  | wire bytes given i hi =>
    have hran := (program_fits i s.par).run (supply given s)
    have hfinish : ¬ mayWrite s.par i .finish := by simp [mayWrite, hi]
    exact ⟨.trans (t := supply given s) (.of_fields rfl rfl rfl rfl) (hran.steady (hstore i)),
      fun hb => (hran.busy hfinish).trans hb⟩

theorem step_steady {s t : State} (h : step s = .next t) : Steady s t ∧ (s.busy = false → t.busy = false) := by
  obtain rfl | ⟨a, later, -, hact⟩ := acted_of_step h
  · exact ⟨.of_fields rfl rfl rfl rfl, id⟩
  · obtain ⟨hsteady, hbusy⟩ := hact.steady
    exact ⟨.trans (t := { s with host := later }) (.of_fields rfl rfl rfl rfl) hsteady, hbusy⟩

end Sys2Proof.Machine

open Sys2Proof Sys2Proof.Machine

/-- Settles O51: every act of the host keeps the invariant but for BUSY, and leaves BUSY = 0. -/
theorem everyStepKeepsTheInvariant : Obligations.EveryStepKeepsTheInvariant := by
  intro s t hs h
  obtain ⟨hsteady, hbusy⟩ := step_steady h
  obtain ⟨hwf, hin, -, hsck⟩ := hsteady.inv ⟨hs.bufWf, hs.bufWithin, rfl, hs.sckAtRest⟩
  exact ⟨hwf, hin, hbusy hs.idle, hsck⟩

/-- Settles O52: BUF is empty, BUSY and SCK are at their reset values. -/
theorem resetMeetsTheInvariant : Obligations.ResetMeetsTheInvariant := ⟨rfl, rfl, rfl, rfl⟩

/-- Settles O53: everything that happens in a step is steady. -/
theorem parametersNeverChange : Obligations.ParametersNeverChange := fun _ _ h => (step_steady h).1.par

/-- Settles O54: everything that happens in a step is steady. -/
theorem traceOnlyGrows : Obligations.TraceOnlyGrows := fun _ _ h => (step_steady h).1.trace

/-- Settles O9: an operation is a program run to its end, and every program's run is its traffic. -/
theorem pinsAndDeviceFollowTheTrace : Obligations.PinsAndDeviceFollowTheTrace := by
  intro i s t hi h
  cases (exec_eq_run i s hi).symm.trans h
  exact (program i s.par).run_traffic s

/-- Settles O37: what an operation does is allowed by `mayWrite`, which names each register's writers. -/
theorem writersOfEachRegister : Obligations.WritersOfEachRegister := by
  intro i s t hi h
  cases (exec_eq_run i s hi).symm.trans h
  have hran := (program_fits i s.par).run s
  obtain ⟨hhost, hpar⟩ := (program i s.par).run_hostSide s
  refine ⟨fun hc => hran.eng ?_, fun hp hw hc => hran.ready ?_, fun hr hl hp => hran.rdata ?_,
    fun hd hr => hran.rxinfo ?_, fun hs hr k => congrArg (·.get? k) (hran.buf fun j => ?_), hhost, hpar⟩
  · rintro ⟨len, T, rfl⟩
    exact hc len T rfl
  · rintro (rfl | ⟨T, rfl⟩ | ⟨len, T, rfl⟩ | ⟨q, r, rfl⟩)
    · exact hp rfl
    · exact hw T rfl
    · exact hc len T rfl
    · cases hi
  · rintro (rfl | ⟨x, rfl⟩ | rfl)
    · exact hr rfl
    · exact hl x rfl
    · exact hp rfl
  · rintro (⟨n, rfl⟩ | ⟨n, rfl⟩)
    · exact hd n rfl
    · exact hr n rfl
  · rintro ⟨-, ⟨x, v, rfl⟩ | ⟨n, rfl⟩ | hwire⟩
    · exact hs x v rfl
    · exact hr n rfl
    · rw [hi] at hwire
      cases hwire
end

section
/-! SUPPORT. The registers as the host reads them, and what it sees of an operation that runs. -/

namespace Sys2Proof.Machine

/-! ### The registers field by field (spec/10_state R13, R20, R21) -/

theorem statusWord_busy (s : State) : (statusWord s).getLsbD 0 = s.busy := by
  rw [statusWord, BitVec.getLsbD_append]
  simp

theorem statusWord_ready (s : State) : (statusWord s).getLsbD 1 = s.ready := by
  rw [statusWord]
  iterate 2 rw [BitVec.getLsbD_append]
  simp

theorem statusWord_ss (s : State) : (statusWord s).getLsbD 2 = s.ss := by
  rw [statusWord]
  iterate 3 rw [BitVec.getLsbD_append]
  simp

theorem statusWord_ovr (s : State) : (statusWord s).getLsbD 3 = s.ovr := by
  rw [statusWord]
  iterate 4 rw [BitVec.getLsbD_append]
  simp

theorem statusWord_eng (s : State) : (statusWord s).extractLsb' 4 3 = s.eng.code := by
  rw [statusWord]
  iterate 4 rw [BitVec.extractLsb'_append_eq_of_le (by decide)]
  exact BitVec.extractLsb'_append_eq_right

theorem statusWord_reserved (s : State) : (statusWord s).getLsbD 7 = false := by
  rw [statusWord]
  iterate 6 rw [BitVec.getLsbD_append]
  simp

theorem statusWord_result (s : State) : (statusWord s).extractLsb' 8 4 = s.result.code := by
  rw [statusWord]
  iterate 6 rw [BitVec.extractLsb'_append_eq_of_le (by decide)]
  exact BitVec.extractLsb'_append_eq_right

theorem statusWord_above (s : State) : (statusWord s).extractLsb' 12 20 = 0 := by
  rw [statusWord]
  iterate 6 rw [BitVec.extractLsb'_append_eq_of_le (by decide)]
  exact BitVec.extractLsb'_append_eq_left

theorem rdataWord_data (s : State) : (rdataWord s).extractLsb' 0 8 = s.rdata := BitVec.extractLsb'_append_eq_right

theorem rdataWord_above (s : State) : (rdataWord s).extractLsb' 8 24 = 0 := BitVec.extractLsb'_append_eq_left

theorem rxinfoWord_dir (s : State) : (rxinfoWord s).extractLsb' 0 8 = s.rxDir := BitVec.extractLsb'_append_eq_right

theorem rxinfoWord_len (s : State) : (rxinfoWord s).extractLsb' 8 8 = s.rxLen := by
  rw [rxinfoWord, BitVec.extractLsb'_append_eq_of_le (by decide)]
  exact BitVec.extractLsb'_append_eq_right

theorem rxinfoWord_valid (s : State) : (rxinfoWord s).getLsbD 16 = s.rxValid := by
  rw [rxinfoWord]
  iterate 3 rw [BitVec.getLsbD_append]
  simp

theorem rxinfoWord_above (s : State) : (rxinfoWord s).extractLsb' 17 15 = 0 := by
  rw [rxinfoWord]
  iterate 2 rw [BitVec.extractLsb'_append_eq_of_le (by decide)]
  exact BitVec.extractLsb'_append_eq_left

/-- The registers RDATA and RXINFO read alike where they hold the same. -/
theorem readReg_of_reports {s t : State} (h : reports t = reports s) {r : Reg} (hr : r = .rdata ∨ r = .rxinfo) :
    readReg r t = readReg r s := by
  simp only [reports, Prod.mk.injEq] at h
  obtain ⟨hdata, hdir, hlen, hvalid⟩ := h
  obtain rfl | rfl := hr
  · simp [readReg, rdataWord, hdata]
  · simp [readReg, rxinfoWord, hdir, hlen, hvalid]

/-! ### An issued command word -/

/-- A command word issued at BUSY = 0 runs its program with the host beside it (spec/10_state R12). -/
theorem step_of_command {s : State} {x : Word} {acts : List BusyAct} {later : List HostAct} (hb : s.busy = false)
    (hh : s.host = .write .cmdw x acts :: later) :
    step s = .next (runBusy acts (program (decodeWord x) s.par) { s with host := later, busy := true }) :=
  (step_of_host_cons hh).trans (issue_of_idle (s := { s with host := later }) hb x acts)

/-- What a program leaves in RDATA and RXINFO from an accepted command word on. -/
theorem Prog.run_accept_reports (pr : Prog) (later : List HostAct) (s : State) :
    reports (pr.run { s with host := later, busy := true }) = reports (pr.run s) := by
  obtain ⟨c, h⟩ := pr.run_withBusy true (withHost s.ovr s.answers later s)
  have e : ({ s with host := later, busy := true } : State) = withBusy true (withHost s.ovr s.answers later s) := rfl
  rw [e, h, Prog.run_withHost]
  rfl

/-- A read after `k` events of an operation finds the operation running, after exactly those events, with what is left
of it still to run, and records the register as it then is (spec/10_state R17; log entry 10). -/
theorem step_of_read_while_busy {s : State} {x : Word} {r : Reg} {k : Nat} {es : List Event} {later : List HostAct}
    (hb : s.busy = false) (hh : s.host = .write .cmdw x [⟨k, .read r⟩] :: later)
    (htrace : ((program (decodeWord x) s.par).run s).trace = s.trace ++ es) (hk : k ≤ es.length) :
    ∃ t seen rest, step s = .next t ∧ t.answers = s.answers ++ [(r, readReg r seen)] ∧
      (program (decodeWord x) s.par).advance k { s with host := later, busy := true } = (seen, some rest) ∧
      Seen { s with host := later, busy := true } seen (es.take k) := by
  obtain ⟨seen, rest, hadv, hseen⟩ := Prog.advance_events _ k { s with host := later, busy := true } es
    ((Prog.run_accept_trace _ later s).trans htrace) hk
  refine ⟨rest.run (answer r seen), seen, rest, ?_, ?_, hadv, hseen⟩
  · rw [step_of_command hb hh, runBusy, hadv]
    rfl
  · rw [(rest.run_hostSide (answer r seen)).1.answers, answer_answers, hseen.answers]

/-- What a read finds in RDATA and RXINFO after `k` of an operation's events: the old values before the last event, the
values the operation leaves after it. -/
theorem Prog.Fits.reports_seen {w : Effect → Prop} {pr rest : Prog} (hf : pr.Fits w) {k : Nat} {s t : State}
    {es : List Event} (htrace : (pr.run s).trace = s.trace ++ es) (hk : k ≤ es.length)
    (hadv : pr.advance k s = (t, some rest)) (hseen : Seen s t (es.take k)) :
    reports t = if k < es.length then reports s else reports (pr.run s) := by
  have hadvanced := hf.advance k s
  have hrun := pr.advance_run k s
  simp only [hadv] at hadvanced hrun
  have hleft : (rest.run t).trace = t.trace ++ es.drop k := by
    rw [hrun, htrace, hseen.traffic.trace, List.append_assoc, List.take_append_drop]
  split
  · refine hadvanced.early rest rfl fun h => ?_
    rw [hleft, List.append_right_eq_self, List.drop_eq_nil_iff] at h
    omega
  · rw [← hrun]
    refine (hadvanced.late rest rfl ?_).symm
    rw [hleft, List.drop_of_length_le (by omega), List.append_nil]

end Sys2Proof.Machine

open Sys2Proof Sys2Proof.Machine

/-- Settles O58: the program of the word writes RDATA and RXINFO only after its last event. -/
theorem registerReadsWhileBusy : Obligations.RegisterReadsWhileBusy := by
  intro s u x r k es later hb hh hexec htrace hk
  cases (exec_eq_run _ s (isWireFormat_decodeWord x)).symm.trans hexec
  obtain ⟨t, seen, rest, hstep, hanswers, hadv, hseen⟩ := step_of_read_while_busy hb hh htrace hk
  have hreports := (program_fits _ _).reports_seen ((Prog.run_accept_trace _ later s).trans htrace) hk hadv hseen
  refine ⟨t, readReg r seen, hstep, hanswers, fun hr => by rw [hr]; rfl, fun hr => ?_⟩
  split
  next hlt => exact readReg_of_reports (s := s) (hreports.trans (if_pos hlt)) hr
  next hge => exact readReg_of_reports ((hreports.trans (if_neg hge)).trans (Prog.run_accept_reports _ later s)) hr

/-- Settles O49: the state that a STATUS read finds has the events so far on the wire and BUSY and RESULT unchanged. -/
theorem statusReadWhileBusy : Obligations.StatusReadWhileBusy := by
  intro s u x k es later hb hh hexec htrace hk
  cases (exec_eq_run _ s (isWireFormat_decodeWord x)).symm.trans hexec
  obtain ⟨t, seen, rest, hstep, hanswers, -, hseen⟩ := step_of_read_while_busy hb hh htrace hk
  refine ⟨t, statusWord seen, hstep, hanswers, ?_, ?_, ?_⟩
  · rw [statusWord_busy, hseen.busy]
  · rw [statusWord_result, hseen.result]
  · rw [statusWord_ss, hseen.traffic.ss]

/-- Settles O48: the host's touches reach the host side alone, at which no program looks. -/
theorem hostCannotDisturbAnOperation : Obligations.HostCannotDisturbAnOperation := by
  intro s u x acts es later hb hh hreset hexec htrace
  cases (exec_eq_run _ { s with host := later, busy := true } (isWireFormat_decodeWord x)).symm.trans hexec
  obtain ⟨early, late, xs, hacts, hrun, hreads, hcount⟩ := runBusy_eq acts _ _ es hreset htrace
  exact ⟨early, late, xs, hacts, by rw [step_of_command hb hh, hrun]; rfl, hreads, hcount⟩

/-- Settles O42: of the acts of the host reset alone, by itself or in an operation, clears OVR. -/
theorem overrunIsSticky : Obligations.OverrunIsSticky := by
  intro s t hovr h hreset hcut
  obtain rfl | ⟨a, later, hhost, hact⟩ := acted_of_step h
  · exact hovr
  · cases hact with
    | read r => exact hovr
    | dropped x acts _ => rfl
    | issued x acts _ =>
      obtain ⟨es, hes⟩ := (program (decodeWord x) s.par).run_traffic (accept { s with host := later })
      obtain ⟨early, late, xs, -, hrun, -, -⟩ := runBusy_eq acts _ _ es (hcut x acts later hhost) hes.trace
      rw [hrun]
      show (s.ovr || early.any BusyAct.isCommand) = true
      rw [hovr, Bool.true_or]
    | ignored r x acts _ => exact hovr
    | reset => exact absurd hhost (hreset later)
    | wire bytes given i _ => exact ((program i s.par).run_hostSide _).1.ovr.trans hovr

/-- Settles O39, field by field; the numbers of ENG and RESULT are those of their codes. -/
theorem registerLayout : Obligations.RegisterLayout := by
  intro s
  refine ⟨rfl, statusWord_busy s, statusWord_ready s, statusWord_ss s, statusWord_ovr s, ?_, statusWord_reserved s, ?_,
    statusWord_above s, rdataWord_data s, rdataWord_above s, rxinfoWord_dir s, rxinfoWord_len s, rxinfoWord_valid s,
    rxinfoWord_above s⟩
  · refine (statusWord_eng s).trans ?_
    cases s.eng <;> rfl
  · refine (statusWord_result s).trans ?_
    cases s.result <;> rfl

/-- Settles O40, register by register. -/
theorem hostReadsAndOtherWritesDoNothing : Obligations.HostReadsAndOtherWritesDoNothing := by
  intro s r x later
  refine ⟨fun h => ?_, fun hr h => ?_⟩
  · rw [step_of_host_cons h]
    cases r <;> rfl
  · rw [step_of_host_cons h]
    cases r with
    | cmdw => exact absurd rfl hr
    | _ => rfl

/-- Settles O41: with BUSY = 1 a command word is dropped. -/
theorem commandWordWhileBusyIsDropped : Obligations.CommandWordWhileBusyIsDropped := fun s x later hb h =>
  (step_of_host_cons h).trans (issue_of_busy (s := { s with host := later }) hb x [])

/-- Settles O43: the reset state is written out, and its words compute. -/
theorem resetState : Obligations.ResetState :=
  ⟨rfl, rfl, rfl, rfl, rfl, rfl, rfl, rfl, rfl, rfl, rfl, rfl, fun _ => rfl⟩
end

section
/-! SUPPORT. The operand checks and what an operation does that one of them turns away; which instructions write a
given byte of BUF, and that the others, one or many, leave it as it was. -/

namespace Sys2Proof.Machine

/-! ### Operands out of range (spec/20_memory R44, spec/60_exceptions R181) -/

theorem badIndex_iff (p : Config.Params) (i : Byte) : badIndex p i = true ↔ p.bufCap ≤ i.toNat :=
  decide_eq_true_iff

theorem badLength_iff (len : Byte) : badLength len = true ↔ 62 < len.toNat := decide_eq_true_iff

theorem badCount_iff (p : Config.Params) (n : Byte) : badCount p n = true ↔ n = 0 ∨ p.bufCap < n.toNat := by
  simp [badCount, ← BitVec.toNat_inj]

theorem badTimeout_iff (T : BitVec 16) : badTimeout T = true ↔ T = 0 := by
  simp [badTimeout, ← BitVec.toNat_inj]

/-- An operation whose pseudocode first checks its operands does nothing but finish where the check fails. -/
theorem turnedAway_of_check {bad : Bool} {c : Code} {pr : Prog} (s : State) (h : bad = true) :
    TurnedAway c s ((if bad = true then .finish c else pr).run s) := by
  rw [if_pos h]
  exact turnedAway_finish c s

/-! ### STB and LDB of an index in range (spec/43_buffer_access R170, R171) -/

theorem exec_stb_of_lt {s : State} {i : Byte} (v : Byte) (h : i.toNat < s.par.bufCap) :
    exec (.stb i v) s = .next (finish .ok (bufStore i.toNat v s)) := by
  have hok : ¬ badIndex s.par i = true := by rw [badIndex_iff]; omega
  simp only [exec, execStb, stbProg, if_neg hok, Prog.run_store, Prog.run_finish]

theorem exec_ldb_of_lt {s : State} {i : Byte} (h : i.toNat < s.par.bufCap) :
    exec (.ldb i) s = .next (finish .ok (setRdata (bufByte s i.toNat) s)) := by
  have hok : ¬ badIndex s.par i = true := by rw [badIndex_iff]; omega
  simp only [exec, execLdb, ldbProg, if_neg hok, Prog.run_load, Prog.run_rdata, Prog.run_finish]

/-! ### Which instructions write a byte of BUF (spec/20_memory R41) -/

/-- An instruction that writes `BUF[k]`: an STB to it, an RDF of more bytes that is not turned away, or the wire-format
row of a frame from the device of more bytes (log entries 6, 8). -/
def WritesByte (p : Config.Params) (k : Nat) : Instr → Prop
  | .stb i _ => i.toNat = k
  | .rdf n => k < n.toNat ∧ n.toNat ≤ p.bufCap
  | .frame .deviceToHost payload => k < (frame dirDeviceToHost payload).length
  | _ => False

variable {w : Effect → Prop}

/-- A program that writes nothing but what `w` allows writes nothing but what anything weaker allows. -/
theorem Prog.Fits.mono {w' : Effect → Prop} (hw : ∀ e, w e → w' e) {pr : Prog} (h : pr.Fits w) : pr.Fits w' := by
  induction pr with
  | finish | done => exact hw _ h
  | select next ih | deselect next ih | write b next ih | delay n next ih => exact ih h
  | read next ih | load i next ih => exact fun b => ih b (h b)
  | ready v next ih | eng e next ih | store i b next ih => exact ⟨hw _ h.1, ih h.2⟩
  | rdata b next | rxinfo d next => exact ⟨hw _ h.1, hw _ h.2.1, h.2.2⟩

/-- A byte that a program may not store is as it was after it. -/
theorem Ran.get? {s t : State} {k : Nat} (h : Ran w s t) (hw : ¬ w (.store k)) : t.buf.get? k = s.buf.get? k := by
  refine h.keeps (f := fun s => s.buf.get? k) fun hp => ?_
  cases hp with
  | wired h => simp only [h.kept.buf]
  | store i b h => exact Memory.get?_set_ne _ b fun hk => hw (hk ▸ h)
  | rxinfo d _ => simp only [setRxinfo_buf]
  | _ => rfl

/-- The program of an instruction that does not write `BUF[k]` stores no byte there. -/
theorem program_fits_of_not_writesByte {i : Instr} {p : Config.Params} {k : Nat} (h : ¬ WritesByte p k i) :
    (program i p).Fits (· ≠ .store k) := by
  have of_mayWrite (hno : ¬ mayWrite p i (.store k)) : (program i p).Fits (· ≠ .store k) :=
    (program_fits i p).mono fun e he (hk : e = .store k) => hno (hk ▸ he)
  cases i with
  | stb idx v => exact .ite_finish nofun fun _ => .store (fun hk => h (Effect.store.inj hk)) (.finish nofun)
  | rdf n =>
    refine .ite_finish nofun fun hgood => .rawRead (fun j hj hk => h ?_) (.decodeBuf nofun nofun)
    have hcap : ¬ (n = 0 ∨ p.bufCap < n.toNat) := by rw [← badCount_iff, hgood]; decide
    cases hk
    exact ⟨hj, by omega⟩
  | frame dir payload =>
    cases dir with
    | hostToDevice => exact .select <| .writes <| .writes <| .deselect (.done nofun)
    | deviceToHost =>
      refine .rawRead (fun j hj hk => h ?_) (.done nofun)
      cases hk
      exact hj.trans_le (Nat.min_le_left _ _)
  | ack => exact Prog.Fits.readAck fun _ => .done nofun
  | statusExchange q r => exact .statusPollWith nofun fun _ => .done nofun
  | _ => exact of_mayWrite (by simp [mayWrite, isWireFormat])

theorem exec_keeps_byte {i : Instr} {s t : State} {k : Nat} (hi : ¬ WritesByte s.par k i) (h : exec i s = .next t) :
    t.par = s.par ∧ t.buf.get? k = s.buf.get? k := by
  obtain ⟨bytes, hrun⟩ := exec_eq_run_supply i
  cases (hrun s).symm.trans h
  exact ⟨((program i s.par).run_hostSide _).2,
    ((program_fits_of_not_writesByte hi).run (supply bytes s)).get? (not_not_intro rfl)⟩

theorem execAll_keeps_byte {is : List Instr} {s t : State} {k : Nat} (his : ∀ i ∈ is, ¬ WritesByte s.par k i)
    (h : execAll is s = .next t) : t.par = s.par ∧ t.buf.get? k = s.buf.get? k := by
  induction is generalizing s with
  | nil => cases h; exact ⟨rfl, rfl⟩
  | cons i is ih =>
    obtain ⟨hi, his⟩ := List.forall_mem_cons.mp his
    rw [execAll] at h
    split at h
    next u hu =>
      obtain ⟨hpar, hbyte⟩ := exec_keeps_byte hi hu
      obtain ⟨hpar', hbyte'⟩ := ih (by rwa [hpar]) h
      exact ⟨hpar'.trans hpar, hbyte'.trans hbyte⟩
    all_goals cases h

end Sys2Proof.Machine

open Sys2Proof Sys2Proof.Machine

/-- Settles O12: no instruction in between writes the byte, by induction on their list. -/
theorem storedByteIsLoadedLater : Obligations.StoredByteIsLoadedLater := by
  intro s t u i v between hi hbetween hstore hrun
  cases (exec_stb_of_lt v hi).symm.trans hstore
  have hkept : ∀ j ∈ between, ¬ WritesByte s.par i.toNat j := by
    intro j hj
    obtain ⟨hstb, hrdf, hframe⟩ := hbetween j hj
    cases j with
    | stb idx x => exact fun hk => hstb x (by rw [BitVec.eq_of_toNat_eq hk])
    | rdf n => exact fun ⟨hlt, hle⟩ => (hrdf n rfl).elim (Nat.not_le_of_lt hlt) (Nat.not_lt_of_le hle)
    | frame dir payload =>
      cases dir with
      | hostToDevice => exact id
      | deviceToHost => exact Nat.not_lt_of_le (hframe payload rfl)
    | _ => exact id
  obtain ⟨hpar, hbyte⟩ := execAll_keeps_byte (s := finish .ok (bufStore i.toNat v s)) hkept hrun
  refine ⟨_, exec_ldb_of_lt (hpar ▸ hi), ?_, rfl⟩
  show bufByte u i.toNat = v
  simp [bufByte, hbyte]

/-- Settles O35: each operation's pseudocode checks its operands first. -/
theorem operandsOutOfRangeAreTurnedAway : Obligations.OperandsOutOfRangeAreTurnedAway := by
  intro s x v T
  refine ⟨fun h => ⟨_, rfl, turnedAway_of_check s ((badIndex_iff _ x).mpr h)⟩,
    fun h => ⟨_, rfl, turnedAway_of_check s ((badIndex_iff _ x).mpr h)⟩,
    fun h => ⟨_, rfl, turnedAway_of_check s ((badLength_iff x).mpr h)⟩,
    fun h => ⟨_, rfl, turnedAway_of_check s ((badCount_iff _ x).mpr h)⟩,
    fun h => ⟨_, rfl, turnedAway_of_check s ((badCount_iff _ x).mpr h)⟩,
    ⟨_, rfl, turnedAway_of_check s ((badTimeout_iff 0).mpr rfl)⟩,
    fun h => ⟨_, rfl, turnedAway_of_check s ?_⟩⟩
  rwa [Bool.or_eq_true, badLength_iff, badTimeout_iff]
end

section
/-! SUPPORT. The decoder and the encoder: the fields of a command word, what a word decodes to by its low byte, the
bytes of a frame, and the bytes of every unit read back. -/

namespace Sys2Proof

/-! ### The fields of a command word (spec/30_encoding R68) -/

theorem extract_op (rest : BitVec 28) (op : BitVec 4) : (rest ++ op : Word).extractLsb' 0 4 = op :=
  BitVec.extractLsb'_append_eq_right

theorem extract_above_op (rest : BitVec 28) (op : BitVec 4) : (rest ++ op : Word).extractLsb' 4 28 = rest :=
  BitVec.extractLsb'_append_eq_left

theorem extract_hi (ab : BitVec 24) (hi op : BitVec 4) : (ab ++ hi ++ op : Word).extractLsb' 4 4 = hi := by
  rw [BitVec.extractLsb'_append_eq_of_le (by decide)]
  exact BitVec.extractLsb'_append_eq_right

theorem extract_above_hi (ab : BitVec 24) (hi op : BitVec 4) : (ab ++ hi ++ op : Word).extractLsb' 8 24 = ab := by
  rw [BitVec.extractLsb'_append_eq_of_le (by decide)]
  exact BitVec.extractLsb'_append_eq_left

theorem extract_a (b : BitVec 16) (a : Byte) (hi op : BitVec 4) :
    (b ++ a ++ hi ++ op : Word).extractLsb' 8 8 = a := by
  iterate 2 rw [BitVec.extractLsb'_append_eq_of_le (by decide)]
  exact BitVec.extractLsb'_append_eq_right

theorem extract_b (b : BitVec 16) (a : Byte) (hi op : BitVec 4) :
    (b ++ a ++ hi ++ op : Word).extractLsb' 16 16 = b := by
  iterate 2 rw [BitVec.extractLsb'_append_eq_of_le (by decide)]
  exact BitVec.extractLsb'_append_eq_left

theorem toNat_extract_op (w : Word) : (w.extractLsb' 0 4).toNat = w.toNat % 16 := by simp

theorem toNat_extract_hi (w : Word) : (w.extractLsb' 4 4).toNat = w.toNat / 16 % 16 := by
  simp [Nat.shiftRight_eq_div_pow]

/-- The mask 0xFF takes the reserved nibble and OP. -/
theorem and_0xFF_eq_iff (w : Word) (op : BitVec 4) :
    w &&& 0xFF = op.setWidth 32 ↔ w.extractLsb' 0 4 = op ∧ w.extractLsb' 4 4 = 0 := by
  have hmask : (w &&& 0xFF).toNat = w.toNat % 256 := by simpa using Nat.and_two_pow_sub_one_eq_mod w.toNat 8
  have hop := op.isLt
  rw [← BitVec.toNat_inj, ← BitVec.toNat_inj, ← BitVec.toNat_inj, hmask, toNat_extract_op, toNat_extract_hi,
    BitVec.toNat_setWidth_of_le (by decide)]
  change _ ↔ _ ∧ _ = 0
  omega

/-- The mask 0x0F takes OP. -/
theorem and_0xF_eq_iff (w : Word) (op : BitVec 4) : w &&& 0xF = op.setWidth 32 ↔ w.extractLsb' 0 4 = op := by
  have hmask : (w &&& 0xF).toNat = w.toNat % 16 := by simpa using Nat.and_two_pow_sub_one_eq_mod w.toNat 4
  rw [← BitVec.toNat_inj, ← BitVec.toNat_inj, hmask, toNat_extract_op, BitVec.toNat_setWidth_of_le (by decide)]

/-- The mask 0xF0 takes the reserved nibble. -/
theorem and_0xF0_eq_zero_iff (w : Word) : w &&& 0xF0 = 0 ↔ w.extractLsb' 4 4 = 0 := by
  have hnibble : (w.toNat &&& 0xF0) / 2 ^ 4 = w.toNat / 2 ^ 4 % 2 ^ 4 := by
    rw [Nat.and_div_two_pow, ← Nat.and_two_pow_sub_one_eq_mod]
  have hbelow : (w.toNat &&& 0xF0) % 2 ^ 4 = 0 := by
    rw [Nat.and_mod_two_pow]
    exact Nat.and_zero _
  have hmask : (w &&& 0xF0).toNat = w.toNat &&& 0xF0 := BitVec.toNat_and w 0xF0
  rw [← BitVec.toNat_inj, ← BitVec.toNat_inj, hmask, toNat_extract_hi]
  change _ = 0 ↔ _ = 0
  omega

/-! ### What a word decodes to (spec/30_encoding R70, R71) -/

/-- OP of an instruction that has a command word. -/
def opcode : Instr → BitVec 4
  | .sel => 0x1
  | .dsl => 0x2
  | .wrb _ => 0x3
  | .rdb => 0x4
  | .stb _ _ => 0x5
  | .ldb _ => 0x6
  | .txc _ => 0x7
  | .dec _ => 0x8
  | .poll => 0x9
  | .wrdy _ => 0xA
  | .rack => 0xB
  | .rdf _ => 0xC
  | .cmd _ _ => 0xD
  | .reservedOpE _ => 0xE
  | .reservedOpF _ => 0xF
  | .reservedHighNibble op _ _ => op
  | .reservedOp0 _ | .frame _ _ | .ack | .statusExchange _ _ => 0x0

/-- Whether an instruction is one of the reserved rows of the table (R71). -/
def isReserved : Instr → Bool
  | .reservedOp0 _ | .reservedOpE _ | .reservedOpF _ | .reservedHighNibble _ _ _ => true
  | .sel | .dsl | .wrb _ | .rdb | .stb _ _ | .ldb _ | .txc _ | .dec _ | .poll | .wrdy _ | .rack | .rdf _ | .cmd _ _
  | .frame _ _ | .ack | .statusExchange _ _ => false

/-- A word's OP is that of what it decodes to. -/
theorem opcode_decodeWord (w : Word) : opcode (decodeWord w) = w.extractLsb' 0 4 := by
  simp only [decodeWord, apply_ite opcode]
  generalize w.extractLsb' 0 4 = op
  generalize w.extractLsb' 4 4 = hi
  simp only [opcode]
  revert op hi
  decide

/-- OP and the reserved nibble alone say whether a word is reserved. -/
theorem isReserved_decodeWord (w : Word) :
    isReserved (decodeWord w) = (reservedOpCode (w.extractLsb' 0 4) || w.extractLsb' 4 4 != 0) := by
  simp only [decodeWord, apply_ite isReserved]
  generalize w.extractLsb' 0 4 = op
  generalize w.extractLsb' 4 4 = hi
  simp only [isReserved]
  revert op hi
  decide

/-- A word whose low byte is an operation's OP with the reserved nibble zero, and no other, decodes to it. -/
theorem low_byte_iff_decodeWord {w : Word} {i : Instr} (hi : isReserved i = false)
    (h : w.extractLsb' 0 4 = opcode i → w.extractLsb' 4 4 = 0 → decodeWord w = i) :
    w &&& 0xFF = (opcode i).setWidth 32 ↔ decodeWord w = i := by
  refine (and_0xFF_eq_iff w _).trans ⟨fun ⟨hop, hhi⟩ => h hop hhi, ?_⟩
  rintro rfl
  rw [isReserved_decodeWord, Bool.or_eq_false_iff] at hi
  exact ⟨(opcode_decodeWord w).symm, by simpa using hi.2⟩

/-- A word decodes to a reserved row by one of its two fields. -/
theorem isReserved_decodeWord_iff (w : Word) :
    isReserved (decodeWord w) = true ↔ w &&& 0xF = 0x0 ∨ w &&& 0xF = 0xE ∨ w &&& 0xF = 0xF ∨ w &&& 0xF0 ≠ 0 := by
  have h0 := and_0xF_eq_iff w 0x0
  have hE := and_0xF_eq_iff w 0xE
  have hF := and_0xF_eq_iff w 0xF
  have hhi := and_0xF0_eq_zero_iff w
  rw [isReserved_decodeWord]
  simp only [reservedOpCode, Bool.or_eq_true, beq_iff_eq, bne_iff_ne, ← h0, ← hE, ← hF, ne_eq, ← hhi, or_assoc]
  rfl

end Sys2Proof

namespace Sys2Proof.Machine

/-! ### A frame byte by byte (spec/30_encoding R62) -/

theorem add_neg8 (v : Byte) : v + neg8 v = 0 := by
  rw [neg8_eq_neg]
  exact BitVec.add_right_neg v

theorem neg8_eq_zero_sub (v : Byte) : neg8 v = 0 - v := (neg8_eq_neg v).trans (BitVec.zero_sub v).symm

theorem frame_getElem?_payload (d : Byte) {payload : List Byte} {k : Nat} (h : k < payload.length) :
    (frame d payload)[6 + k]? = payload[k]? := by
  simp [frame_eq, Nat.add_comm 6 k, List.getElem?_append_left h]

theorem frame_getElem?_dcs (d : Byte) (payload : List Byte) :
    (frame d payload)[6 + payload.length]? = some (neg8 (d + sum8 payload)) := by
  simp [frame_eq, Nat.add_comm 6]

theorem frame_getElem?_postamble (d : Byte) (payload : List Byte) :
    (frame d payload)[7 + payload.length]? = some 0x00 := by
  simp [frame_eq, Nat.add_comm 7]

theorem sum8_eq_sum (bs : List Byte) : sum8 bs = bs.sum := by
  induction bs with
  | nil => rfl
  | cons b bs ih => rw [sum8_cons, List.sum_cons, ih]

end Sys2Proof.Machine

namespace Sys2Proof

/-! ### Units read back -/

/-- A word made of an instruction's fields is read by those fields. -/
theorem decodeWord_encodeWord {i : Instr} (hw : i.wf = true) (hi : Machine.isWireFormat i = false) :
    decodeWord (encodeWord i) = i := by
  cases i with
  | reservedHighNibble op r ab =>
    simp [Instr.wf, reservedOpCode] at hw
    simp [decodeWord, encodeWord, extract_op, extract_hi, extract_above_hi, hw]
  | frame | ack | statusExchange => cases hi
  | stb x v =>
    have hv : (v.setWidth 16).extractLsb' 0 8 = v := BitVec.eq_of_toNat_eq (by simp; omega)
    simp [decodeWord, encodeWord, commandWord, extract_op, extract_hi, extract_a, extract_b, hv]
  | _ =>
    simp [decodeWord, encodeWord, commandWord, extract_op, extract_above_op, extract_hi, extract_a, extract_b]

/-- A command word's bytes, put together again (log entry 14). -/
theorem decode_bytesOfWord (w : Word) : decode (bytesOfWord w) = .ok (decodeWord w) := by
  have h : wordOfBytes (w.extractLsb' 0 8) (w.extractLsb' 8 8) (w.extractLsb' 16 8) (w.extractLsb' 24 8) = w := by
    unfold wordOfBytes
    rw [BitVec.extractLsb'_append_extractLsb'_eq_extractLsb' (by rfl),
      BitVec.extractLsb'_append_extractLsb'_eq_extractLsb' (by rfl),
      BitVec.extractLsb'_append_extractLsb'_eq_extractLsb' (by rfl)]
    exact BitVec.extractLsb'_eq_self
  simp only [bytesOfWord, decode, h]

/-- Eight bytes and more are read as a frame (log entry 19). -/
theorem decode_of_length {bytes : List Byte} (h : 8 ≤ bytes.length) : decode bytes = decodeFrameUnit bytes := by
  unfold decode
  split
  · simp at h
  · simp at h
  · simp at h
  · exact if_neg (by omega)

/-- A frame read as one: every check of the format holds of it. -/
theorem decodeFrameUnit_frame (dir : Direction) {payload : List Byte} (h : payload.length ≤ 254) :
    decodeFrameUnit (Machine.frame dir.byte payload) = .ok (.frame dir payload) := by
  generalize hbytes : Machine.frame dir.byte payload = bytes
  have heq := hbytes.symm.trans (Machine.frame_eq dir.byte payload)
  have hlen := Machine.lenByte_toNat h
  have hstart : bytes.take 3 = Machine.startBytes := by rw [heq]; rfl
  have hL : bytes.getD 3 0 = Machine.lenByte payload.length := by rw [heq]; rfl
  have hlcs : Machine.lenByte payload.length + bytes.getD 4 0 = 0 := by
    rw [heq]
    exact Machine.add_neg8 _
  have hcount : ¬ (Machine.lenByte payload.length = 0 ∨ bytes.length ≠ 7 + (payload.length + 1)) := by
    rw [← BitVec.toNat_inj, hlen, ← hbytes, Machine.frame_length]
    change ¬ (_ = 0 ∨ _)
    omega
  have hD : directionOfByte (bytes.getD 5 0) = some dir := by rw [heq]; cases dir <;> rfl
  have hP : (bytes.drop 6).take (payload.length + 1 - 1) = payload := by simp [heq]
  have hdcs : bytes.getD (5 + (payload.length + 1)) 0 = Machine.neg8 (dir.byte + Machine.sum8 payload) := by
    rw [← hbytes, ← Nat.add_assoc 5, Nat.add_right_comm, List.getD_eq_getElem?_getD, Machine.frame_getElem?_dcs]
    rfl
  have hpost : bytes.getD (6 + (payload.length + 1)) 0 = Machine.postamble := by
    rw [← hbytes, ← Nat.add_assoc 6, Nat.add_right_comm, List.getD_eq_getElem?_getD, Machine.frame_getElem?_postamble]
    rfl
  simp only [decodeFrameUnit, hL, hlen, hstart, hlcs, hcount, hD, hP, hdcs, hpost, ne_eq, not_true_eq_false, if_false]

end Sys2Proof

open Sys2Proof Sys2Proof.Machine

/-- Settles O1, by the form of the unit: a word is put together again from its bytes and then read by its fields; a
frame passes every check of the format. -/
theorem decodeOfEncodeIsTheInstruction : Obligations.DecodeOfEncodeIsTheInstruction := by
  intro i hw
  have command (hi : Machine.isWireFormat i = false) : decode (bytesOfWord (encodeWord i)) = .ok i := by
    rw [decode_bytesOfWord, decodeWord_encodeWord hw hi]
  cases i with
  | frame dir payload =>
    have hlen : payload.length ≤ 254 := of_decide_eq_true hw
    rw [encode, decode_of_length (by simp), decodeFrameUnit_frame dir hlen]
  | ack => rfl
  | statusExchange q r => rfl
  | _ => exact command rfl

/-- Settles O2: the low byte is OP with the reserved nibble zero, and OP says which arm of the decoder is taken. -/
theorem lowByteSelectsTheOperation : Obligations.LowByteSelectsTheOperation := by
  intro w
  refine ⟨low_byte_iff_decodeWord (i := .sel) rfl ?_, low_byte_iff_decodeWord (i := .dsl) rfl ?_,
    low_byte_iff_decodeWord (i := .wrb _) rfl ?_, low_byte_iff_decodeWord (i := .rdb) rfl ?_,
    low_byte_iff_decodeWord (i := .stb _ _) rfl ?_, low_byte_iff_decodeWord (i := .ldb _) rfl ?_,
    low_byte_iff_decodeWord (i := .txc _) rfl ?_, low_byte_iff_decodeWord (i := .dec _) rfl ?_,
    low_byte_iff_decodeWord (i := .poll) rfl ?_, low_byte_iff_decodeWord (i := .wrdy _) rfl ?_,
    low_byte_iff_decodeWord (i := .rack) rfl ?_, low_byte_iff_decodeWord (i := .rdf _) rfl ?_,
    low_byte_iff_decodeWord (i := .cmd _ _) rfl ?_⟩
  all_goals
    intro hop hhi
    simp [decodeWord, hop, hhi, opcode]

/-- Settles O3: each word's fields select its arm of the decoder. -/
theorem wordsOfTheSpecDecode : Obligations.WordsOfTheSpecDecode := by
  unfold Obligations.WordsOfTheSpecDecode
  decide

/-- Settles O15: the frame written out byte by byte; the two checksums are negated sums. -/
theorem frameLayoutByIndex : Obligations.FrameLayoutByIndex := by
  intro d payload hlen
  refine ⟨frame_length d payload, ?_, ?_, ?_, ⟨lenByte payload.length, ?_, lenByte_toNat hlen, ?lcs⟩, ?_,
    fun k hk => frame_getElem?_payload d hk, ?dcs, frame_getElem?_postamble d payload⟩
  case lcs =>
    rw [← neg8_eq_zero_sub, frame_eq]
    rfl
  case dcs => rw [frame_getElem?_dcs, sum8_eq_sum, neg8_eq_zero_sub]
  all_goals
    rw [frame_eq]
    rfl

end

section
/-! SUPPORT. What each operation of the wire comes to, in one equation: where the wait, the request and the sequence of
R75 end, and that their outcome on the wire does not depend on ENG, RESULT, BUSY or the use count. -/

namespace Sys2Proof.Machine

/-! ### The wait as a function (spec/42_protocol_engine R144) -/

/-- The state after `WaitReady(T)`; it ended Ready exactly where READY is set. -/
def waitDone (p : Config.Params) (T : Nat) (s : State) : State := (waitReady p T fun _ => .done).run s

theorem run_waitReady_eq (p : Config.Params) (T : Nat) (next : Bool → Prog) (s : State) :
    (waitReady p T next).run s = (next (waitDone p T s).ready).run (waitDone p T s) := by
  obtain ⟨t, ready, vs, hrun, hwait⟩ := run_waitReady p T s
  have ht : waitDone p T s = t := hrun _
  rw [hrun, ht, hwait.kept.ready]

theorem waitDone_par (p : Config.Params) (T : Nat) (s : State) : (waitDone p T s).par = s.par :=
  (Prog.run_hostSide _ s).2

@[simp] theorem readDone_par (p : Config.Params) (k : Nat) (s : State) : (readDone p k s).par = s.par :=
  (wired_readDone p k s).traffic.par

/-! ### What the wire does not depend on

The operations of the sequence write RESULT, BUSY and the use count where CMD writes ENG; no transaction looks at these. -/

/-- A state with another ENG, RESULT, BUSY and use count. -/
def withLife (e : Eng) (c : Code) (b : Bool) (n : Nat) (s : State) : State :=
  { s with eng := e, result := c, busy := b, draw := n }

section
variable (e : Eng) (c : Code) (b : Bool) (n : Nat) (p : Config.Params) (s : State)

theorem setEng_eq_withLife (e : Eng) : setEng e s = withLife e s.result s.busy s.draw s := rfl

theorem finish_eq_withLife (c : Code) : finish c s = withLife s.eng c false (s.draw + 1) s := rfl

@[simp] theorem setEng_withLife (e' : Eng) : setEng e' (withLife e c b n s) = withLife e' c b n s := rfl

@[simp] theorem finish_withLife (c' : Code) : finish c' (withLife e c b n s) = withLife e c' false (n + 1) s := rfl

@[simp] theorem withLife_par : (withLife e c b n s).par = s.par := rfl

@[simp] theorem withLife_ready : (withLife e c b n s).ready = s.ready := rfl

@[simp] theorem withLife_result : (withLife e c b n s).result = c := rfl

@[simp] theorem spiWrite_withLife (v : Byte) : spiWrite v (withLife e c b n s) = withLife e c b n (spiWrite v s) := by
  rw [spiWrite_eq, spiWrite_eq]; rfl

theorem spiRead_withLife : spiRead (withLife e c b n s) = withLife e c b n (spiRead s) := by
  rw [spiRead_eq, spiRead_eq]; rfl

theorem spiWrites_withLife (bs : List Byte) :
    spiWrites bs (withLife e c b n s) = withLife e c b n (spiWrites bs s) := by
  induction bs generalizing s with
  | nil => rfl
  | cons v bs ih => exact (congrArg (spiWrites bs) (spiWrite_withLife e c b n s v)).trans (ih _)

theorem spiReads_withLife (k : Nat) : spiReads k (withLife e c b n s) = withLife e c b n (spiReads k s) := by
  induction k generalizing s with
  | zero => rfl
  | succ k ih => rw [spiReads, spiRead_withLife, ih, spiReads]

theorem nextBytes_withLife (k : Nat) : nextBytes k (withLife e c b n s) = nextBytes k s := by
  induction k generalizing s with
  | zero => rfl
  | succ k ih => rw [nextBytes, spiRead_withLife, ih]; rfl

@[simp] theorem sendFrame_withLife (bs : List Byte) :
    sendFrame p bs (withLife e c b n s) = withLife e c b n (sendFrame p bs s) :=
  congrArg deselect (spiWrites_withLife e c b n (select s) _)

theorem readBegun_withLife : readBegun p (withLife e c b n s) = withLife e c b n (readBegun p s) :=
  spiWrites_withLife e c b n (select s) _

@[simp] theorem readDone_withLife (k : Nat) : readDone p k (withLife e c b n s) = withLife e c b n (readDone p k s) := by
  rw [readDone, readBegun_withLife, spiReads_withLife]; rfl

@[simp] theorem readBytes_withLife (k : Nat) : readBytes p k (withLife e c b n s) = readBytes p k s := by
  rw [readBytes, readBegun_withLife, nextBytes_withLife, readBytes]

theorem pollValue_withLife (q : Byte) : pollValue q (withLife e c b n s) = pollValue q s := by
  rw [pollValue, show select (withLife e c b n s) = withLife e c b n (select s) from rfl, spiWrite_withLife]; rfl

theorem pollDone_withLife (q : Byte) : pollDone q (withLife e c b n s) = withLife e c b n (pollDone q s) := by
  rw [pollDone, show select (withLife e c b n s) = withLife e c b n (select s) from rfl, spiWrite_withLife,
    spiRead_withLife]; rfl

theorem waitLoop_withLife (T fuel elapsed : Nat) :
    (waitLoop p T fuel elapsed fun _ => .done).run (withLife e c b n s) =
      withLife e c b n ((waitLoop p T fuel elapsed fun _ => .done).run s) := by
  induction fuel generalizing elapsed s with
  | zero => rfl
  | succ fuel ih =>
    simp only [waitLoop_succ, statusPoll, run_statusPollWith, pollValue_withLife, pollDone_withLife]
    split
    · rfl
    · split
      · rfl
      · exact ih (delay 10 (setReady _ (pollDone p.statusReq s))) _

@[simp] theorem waitDone_withLife (T : Nat) : waitDone p T (withLife e c b n s) = withLife e c b n (waitDone p T s) :=
  waitLoop_withLife e c b n p s T _ 0

end

/-! ### The operations in one equation each -/

theorem bufBytes_withLife (e : Eng) (c : Code) (b : Bool) (s : State) (i k : Nat) :
    bufBytes (withLife e c b s.draw s) i k = bufBytes s i k := by
  induction k generalizing i with
  | zero => rfl
  | succ k ih => rw [bufBytes, ih]; rfl

/-- The state in which the frame of the staged bytes has been sent. -/
def frameSent (s : State) (len : Byte) : State :=
  sendFrame s.par (frame dirHostToDevice (bufBytes s 0 len.toNat)) s

theorem wired_frameSent (s : State) (len : Byte) :
    Wired s (frameSent s len) (frameWrite s.par (frame dirHostToDevice (bufBytes s 0 len.toNat))) :=
  wired_sendFrame s.par _ s

theorem exec_txc_of_le {s : State} {len : Byte} (h : ¬ 62 < len.toNat) :
    exec (.txc len) s = .next (finish .ok (frameSent s len)) := by
  have hok : ¬ badLength len = true := by rwa [badLength_iff]
  simp only [exec, execTxc, txcProg, if_neg hok, run_txFrame, Prog.run_finish, frameSent]

theorem exec_txc_of_bad {s : State} {len : Byte} (h : 62 < len.toNat) :
    exec (.txc len) s = .next (finish .badArg s) := by
  simp only [exec, execTxc, txcProg, if_pos ((badLength_iff len).mpr h), Prog.run_finish]

theorem exec_wrdy_of_zero (s : State) : exec (.wrdy 0) s = .next (finish .badArg s) := rfl

theorem exec_wrdy_of_ne {s : State} {T : BitVec 16} (h : T ≠ 0) :
    exec (.wrdy T) s = .next (finish (if (waitDone s.par T.toNat s).ready then .ok else .timeout)
      (waitDone s.par T.toNat s)) := by
  have hok : ¬ badTimeout T = true := by rwa [badTimeout_iff]
  simp only [exec, execWrdy, wrdyProg, if_neg hok, run_waitReady_eq]
  cases (waitDone s.par T.toNat s).ready <;> rfl

theorem exec_rack (s : State) :
    exec .rack s = .next (finish (if isAck (readBytes s.par 6 s) then .ok else .ackMismatch) (readDone s.par 6 s)) := by
  simp only [exec, execRack, rackProg, run_readAck]
  cases isAck (readBytes s.par 6 s) <;> rfl

theorem execWhileOk_cons {i : Instr} {s t : State} (h : exec i s = .next t) (is : List Instr) :
    execWhileOk (i :: is) s = if t.result = .ok then execWhileOk is t else .next t := by
  rw [execWhileOk, h]

theorem execWhileOk_cons_of_ok {i : Instr} {s t : State} (h : exec i s = .next t) (hok : t.result = .ok)
    (is : List Instr) : execWhileOk (i :: is) s = execWhileOk is t := by
  rw [execWhileOk_cons h, if_pos hok]

theorem execWhileOk_nil (s : State) : execWhileOk [] s = .next s := rfl

/-! ### A request and its sequence (spec/30_encoding R75, spec/42_protocol_engine R150) -/

/-- Where a request whose frame has been sent ends on the wire, and with which code: it goes on to the acknowledgement
and to the second wait only where what came before went well. -/
inductive RequestEnds (s : State) (T : BitVec 16) : Code → State → Prop
  /-- The first wait times out. -/
  | late {w : State} (hw : waitDone s.par T.toNat s = w) (hready : w.ready = false) : RequestEnds s T .timeout w
  /-- The six bytes read are not the acknowledgement. -/
  | unacknowledged {w : State} (hw : waitDone s.par T.toNat s = w) (hready : w.ready = true)
    (hack : isAck (readBytes s.par 6 w) = false) : RequestEnds s T .ackMismatch (readDone s.par 6 w)
  /-- The second wait times out. -/
  | lateAgain {w v : State} (hw : waitDone s.par T.toNat s = w) (hready : w.ready = true)
    (hack : isAck (readBytes s.par 6 w) = true) (hv : waitDone s.par T.toNat (readDone s.par 6 w) = v)
    (hready2 : v.ready = false) : RequestEnds s T .timeout v
  /-- Everything went well. -/
  | complete {w v : State} (hw : waitDone s.par T.toNat s = w) (hready : w.ready = true)
    (hack : isAck (readBytes s.par 6 w) = true) (hv : waitDone s.par T.toNat (readDone s.par 6 w) = v)
    (hready2 : v.ready = true) : RequestEnds s T .ok v

/-- Every request ends in one of these ways. -/
theorem exists_requestEnds (s : State) (T : BitVec 16) : ∃ c t, RequestEnds s T c t := by
  cases hready : (waitDone s.par T.toNat s).ready with
  | false => exact ⟨_, _, .late rfl hready⟩
  | true =>
    cases hack : isAck (readBytes s.par 6 (waitDone s.par T.toNat s)) with
    | false => exact ⟨_, _, .unacknowledged rfl hready hack⟩
    | true =>
      cases hready2 : (waitDone s.par T.toNat (readDone s.par 6 (waitDone s.par T.toNat s))).ready with
      | false => exact ⟨_, _, .lateAgain rfl hready hack rfl hready2⟩
      | true => exact ⟨_, _, .complete rfl hready hack rfl hready2⟩

/-- CMD's pseudocode after its frame. -/
theorem RequestEnds.run_afterFrame {s t : State} {T : BitVec 16} {c : Code} (h : RequestEnds s T c t) (e : Eng)
    (c' : Code) (b : Bool) (n : Nat) :
    (waitReady s.par T.toNat (cmdAfterWait1 s.par T)).run (withLife e c' b n s) =
      withLife (if c = .ok then .complete else .failed) c false (n + 1) t := by
  cases h with
  | late hw hready => simp [run_waitReady_eq, cmdAfterWait1, hw, hready]
  | unacknowledged hw hready hack => simp [run_waitReady_eq, cmdAfterWait1, hw, hready, hack]
  | lateAgain hw hready hack hv hready2 => simp [run_waitReady_eq, cmdAfterWait1, hw, hready, hack, hv, hready2]
  | complete hw hready hack hv hready2 => simp [run_waitReady_eq, cmdAfterWait1, hw, hready, hack, hv, hready2]

/-- The sequence's operations after its TXC. -/
theorem RequestEnds.run_sequence {s t : State} {T : BitVec 16} {c : Code} (h : RequestEnds s T c t) (hT : T ≠ 0)
    (e : Eng) (c' : Code) (b : Bool) (n : Nat) :
    ∃ m, execWhileOk [.wrdy T, .rack, .wrdy T] (withLife e c' b n s) = .next (withLife e c false m t) := by
  have hwait (u : State) := execWhileOk_cons (exec_wrdy_of_ne (s := u) hT)
  have hack (u : State) := execWhileOk_cons (exec_rack u)
  have hpar {w : State} (hw : waitDone s.par T.toNat s = w) : w.par = s.par := hw ▸ waitDone_par _ _ s
  rw [hwait]
  cases h with
  | late hw hready => exact ⟨n + 1, by simp [hw, hready]⟩
  | unacknowledged hw hready ha => exact ⟨n + 2, by simp [hw, hready, hack, ha, hpar hw]⟩
  | lateAgain hw hready ha hv hready2 => exact ⟨n + 3, by simp [hw, hready, hack, ha, hpar hw, hwait, hv, hready2]⟩
  | complete hw hready ha hv hready2 =>
    exact ⟨n + 3, by simp [hw, hready, hack, ha, hpar hw, hwait, hv, hready2, execWhileOk_nil]⟩

/-- A request in range does what its end says, from its frame on. -/
theorem RequestEnds.exec_cmd {s t : State} {len : Byte} {T : BitVec 16} {c : Code}
    (h : RequestEnds (frameSent s len) T c t) (hlen : ¬ 62 < len.toNat) (hT : T ≠ 0) :
    exec (.cmd len T) s =
      .next (withLife (if c = .ok then .complete else .failed) c false (s.draw + 1) t) := by
  have hok : ¬ (badLength len || badTimeout T) = true := by
    rw [Bool.or_eq_true, badLength_iff, badTimeout_iff]
    exact not_or_intro hlen hT
  have hrun := h.run_afterFrame .awaitingReady1 s.result s.busy s.draw
  rw [(wired_frameSent s len).traffic.par] at hrun
  simp only [exec, execCmd, cmdProg, if_neg hok, Prog.run_eng, run_txFrame]
  rw [setEng_eq_withLife s, bufBytes_withLife, sendFrame_withLife]
  exact congrArg _ hrun

/-- A request out of range is turned away. -/
theorem exec_cmd_of_bad {s : State} {len : Byte} {T : BitVec 16} (h : 62 < len.toNat ∨ T = 0) :
    exec (.cmd len T) s = .next (finish .badArg s) := by
  have hbad : (badLength len || badTimeout T) = true := by rwa [Bool.or_eq_true, badLength_iff, badTimeout_iff]
  simp only [exec, execCmd, cmdProg, if_pos hbad, Prog.run_finish]

/-- All that CMD can do: it is turned away, or it sends its frame and ends as a request does. -/
theorem exec_cmd_cases {s t : State} {len : Byte} {T : BitVec 16} (h : exec (.cmd len T) s = .next t) :
    t = finish .badArg s ∨ ∃ c u, RequestEnds (frameSent s len) T c u ∧
      t = withLife (if c = .ok then .complete else .failed) c false (s.draw + 1) u := by
  by_cases hbad : 62 < len.toNat ∨ T = 0
  · cases (exec_cmd_of_bad hbad).symm.trans h
    exact .inl rfl
  · obtain ⟨hlen, hT⟩ := not_or.mp hbad
    obtain ⟨c, u, hend⟩ := exists_requestEnds (frameSent s len) T
    cases (hend.exec_cmd hlen hT).symm.trans h
    exact .inr ⟨c, u, hend, rfl⟩

end Sys2Proof.Machine

open Sys2Proof Sys2Proof.Machine

/-- Settles O30: in range both go from the frame to the same end, since the wire does not depend on what the operations
of the sequence write in between; out of range CMD and TXC check the length alike, but TXC has no timeout to check. -/
theorem requestEqualsItsSequence : Obligations.RequestEqualsItsSequence := by
  intro s len T
  by_cases hlen : 62 < len.toNat
  · refine ⟨_, _, exec_cmd_of_bad (.inl hlen), execWhileOk_cons (exec_txc_of_bad hlen) _, rfl, ?_⟩
    rw [if_pos hlen]
    exact ⟨rfl, turnedAway_finish _ s⟩
  have hsent := wired_frameSent s len
  by_cases hT : T = 0
  · subst hT
    refine ⟨_, finish .badArg (finish .ok (frameSent s len)), exec_cmd_of_bad (.inr rfl), ?_, hsent.kept.eng, ?_⟩
    · rw [commandSequence, execWhileOk_cons_of_ok (exec_txc_of_le hlen) rfl, execWhileOk_cons (exec_wrdy_of_zero _)]
      rfl
    · rw [if_neg hlen, if_neg (not_not_intro rfl)]
      exact ⟨turnedAway_finish _ s, hsent.traffic.trace, rfl⟩
  · obtain ⟨c, t, hend⟩ := exists_requestEnds (frameSent s len) T
    obtain ⟨m, hsequence⟩ := hend.run_sequence hT s.eng .ok false ((frameSent s len).draw + 1)
    refine ⟨_, withLife s.eng c false m t, hend.exec_cmd hlen hT, ?_, rfl, ?_⟩
    · rw [commandSequence, execWhileOk_cons_of_ok (exec_txc_of_le hlen) rfl, finish_eq_withLife, hsent.kept.eng]
      exact hsequence
    · rw [if_neg hlen, if_pos hT]
      rfl
end

section
/-! SUPPORT. What the decoder's acceptance says of the bytes, and what operations that end OK have done. -/

namespace Sys2Proof.Machine

/-! ### A frame that the decoder accepts (spec/41_frame_codec R120) -/

theorem eq_neg8_of_add_eq_zero {u v : Byte} (h : u + v = 0) : v = neg8 u := by
  rw [neg8_eq_neg]
  exact eq_neg_of_add_eq_zero_right h

/-- What the checks of the decoder say of bytes it accepts. -/
theorem shape_of_decodeFrame_ok {raw payload : List Byte} {d : Byte} (h : decodeFrame raw = .ok d payload) :
    ∃ l tail, raw = 0x00 :: 0x00 :: 0xFF :: l :: neg8 l :: d :: tail ∧ l ≠ 0 ∧ l.toNat ≤ tail.length ∧
      d + sum8 (tail.take l.toNat) = 0 ∧ payload = tail.take (l.toNat - 1) := by
  unfold decodeFrame at h
  repeat' split at h
  all_goals cases h
  next hstart _ hlcs hzero hcount hdcs =>
  match raw with
  | [] | [_] | [_, _] | [_, _, _] | [_, _, _, _] | [_, _, _, _, _] =>
    simp only [List.length_cons, List.length_nil] at hcount
    omega
  | a :: b :: c :: l :: k :: d :: tail =>
    obtain ⟨rfl, rfl, rfl⟩ : a = 0x00 ∧ b = 0x00 ∧ c = 0xFF := by simpa [startBytes] using hstart
    obtain rfl : k = neg8 l := eq_neg8_of_add_eq_zero (not_not.mp hlcs)
    change ¬ (tail.length + 6 < 6 + l.toNat) at hcount
    exact ⟨l, tail, rfl, hzero, by omega, not_not.mp hdcs, rfl⟩

/-- Bytes that the decoder accepts are a frame but for its postamble, and anything after it. -/
theorem eq_frame_of_decodeFrame_ok {raw payload : List Byte} {d : Byte} (h : decodeFrame raw = .ok d payload) :
    ∃ rest, raw = (frame d payload).take (payload.length + 7) ++ rest := by
  obtain ⟨l, tail, rfl, hzero, hle, hdcs, rfl⟩ := shape_of_decodeFrame_ok h
  obtain ⟨m, hm⟩ : ∃ m, l.toNat = m + 1 := Nat.exists_eq_succ_of_ne_zero fun h0 => hzero (BitVec.eq_of_toNat_eq h0)
  rw [hm] at hle hdcs
  rw [hm, Nat.add_sub_cancel]
  have hlen : (tail.take m).length = m := by rw [List.length_take]; omega
  have hl : l = lenByte m := BitVec.eq_of_toNat_eq (by rw [hm, lenByte_toNat (by have := l.isLt; omega)])
  have hsum : tail[m] = neg8 (d + sum8 (tail.take m)) := by
    refine eq_neg8_of_add_eq_zero ?_
    rwa [List.take_succ_eq_append_getElem, sum8_append, ← BitVec.add_assoc, sum8_cons, sum8_nil, add_zero] at hdcs
  refine ⟨tail.drop (m + 1), ?_⟩
  rw [frame_eq, hlen, ← hsum, ← hl]
  simp [List.take_append, List.take_take, hlen]

/-! ### Operations that end OK -/

theorem bufBytes_getElem? (s : State) (i : Nat) {n k : Nat} (h : k < n) :
    (bufBytes s i n)[k]? = some (bufByte s (i + k)) := by
  induction n generalizing i k with
  | zero => omega
  | succ n ih =>
    cases k with
    | zero => rfl
    | succ k => rw [bufBytes, List.getElem?_cons_succ, ih (i + 1) (by omega), Nat.add_right_comm, Nat.add_assoc]

theorem execWhileOk_cons_eq_ok {i : Instr} {is : List Instr} {s t : State} (h : execWhileOk (i :: is) s = .next t)
    (hok : t.result = .ok) : ∃ u, exec i s = .next u ∧ u.result = .ok ∧ execWhileOk is u = .next t := by
  rw [execWhileOk] at h
  split at h
  next u hu =>
    split at h
    next hres => exact ⟨u, hu, hres, h⟩
    next hres => cases h; exact absurd hok hres
  all_goals cases h

/-- A request that ends OK was in range and is Complete. -/
theorem eng_of_cmd_ok {s t : State} {len : Byte} {T : BitVec 16} (h : exec (.cmd len T) s = .next t)
    (hok : t.result = .ok) : t.eng = .complete := by
  obtain rfl | ⟨c, u, -, rfl⟩ := exec_cmd_cases h
  · cases hok
  · obtain rfl : c = .ok := hok
    rfl

theorem exec_rdf_of_bad {s : State} {n : Byte} (h : n = 0 ∨ s.par.bufCap < n.toNat) :
    exec (.rdf n) s = .next (finish .badArg s) := by
  simp only [exec, execRdf, rdfProg, if_pos ((badCount_iff s.par n).mpr h), Prog.run_finish]

/-- A frame read in range stores the bytes it read and reports their decode (spec/42_protocol_engine R154). -/
theorem exec_rdf_of_good {s : State} {n : Byte} (h : ¬ (n = 0 ∨ s.par.bufCap < n.toNat)) :
    exec (.rdf n) s = .next (finish (decodeFrame (readBytes s.par n.toNat s)).code
      (setRxinfo (decodeFrame (readBytes s.par n.toNat s))
        (storeBytes 0 (readBytes s.par n.toNat s) (readDone s.par n.toNat s)))) := by
  have hok : ¬ badCount s.par n = true := by rwa [badCount_iff]
  have hbuf := bufBytes_storeBytes (readBytes s.par n.toNat s) (readDone s.par n.toNat s)
  rw [readBytes_length] at hbuf
  simp only [exec, execRdf, rdfProg, if_neg hok, run_rawRead, run_decodeBuf, hbuf]

/-- A frame read that ends OK was in range; BUF holds the bytes it read, which are a frame, and RXINFO describes it. -/
theorem frame_of_rdf_ok {s t : State} {n : Byte} (h : exec (.rdf n) s = .next t) (hok : t.result = .ok) :
    ∃ payload, n.toNat ≤ t.par.bufCap ∧ decodeFrame (bufBytes t 0 n.toNat) = .ok t.rxDir payload ∧
      t.rxLen.toNat = payload.length ∧ t.rxValid = true ∧ t.eng = s.eng := by
  by_cases hbad : n = 0 ∨ s.par.bufCap < n.toNat
  · cases (exec_rdf_of_bad hbad).symm.trans h
    cases hok
  cases (exec_rdf_of_good hbad).symm.trans h
  have hlen := readBytes_length s.par n.toNat s
  have hdone := wired_readDone s.par n.toNat s
  generalize readBytes s.par n.toNat s = raw at *
  cases hdec : decodeFrame raw with
  | error e =>
    rw [hdec] at hok
    cases e <;> cases hok
  | ok d payload =>
    have hpayload := decodeFrame_ok_length hdec
    refine ⟨payload, ?_, ?_, ?_, rfl, ?_⟩
    · change n.toNat ≤ (storeBytes 0 raw (readDone s.par n.toNat s)).par.bufCap
      rw [storeBytes_par, readDone_par]
      omega
    · rw [← hlen, bufBytes_eq_of_get? _ raw 0 fun k hk => ?_]
      · exact hdec
      · simp [get?_storeBytes, hk]
    · exact Nat.mod_eq_of_lt (by omega)
    · simp [hdone.kept.eng]

end Sys2Proof.Machine

open Sys2Proof Sys2Proof.Machine

/-- Settles O31: each of the two operations ended OK, so the request is Complete and the bytes read are a frame, whose
payload begins at index 6. -/
theorem exchangeDeliversTheResponse : Obligations.ExchangeDeliversTheResponse := by
  intro s t len n T h hok
  obtain ⟨u, hcmd, hcmdOk, h⟩ := execWhileOk_cons_eq_ok h hok
  obtain ⟨v, hrdf, -, h⟩ := execWhileOk_cons_eq_ok h hok
  cases h
  obtain ⟨payload, hcap, hdec, hlen, hvalid, heng⟩ := frame_of_rdf_ok hrdf hok
  obtain ⟨rest, hframe⟩ := eq_frame_of_decodeFrame_ok hdec
  refine ⟨?_, hvalid, ?_, payload, rest, hframe, hlen, fun k hk => ?_⟩
  · rw [dutyCompleted, heng, eng_of_cmd_ok hcmd hcmdOk]
    rfl
  · rw [dutyDecoded, hvalid]
    rfl
  · have hread : (bufBytes t 0 n.toNat)[6 + k]? = payload[k]? := by
      rw [hframe, List.getElem?_append_left (by simp; omega), List.getElem?_take_of_lt (by omega),
        frame_getElem?_payload _ hk]
    have hn : 6 + k < n.toNat := by
      have := congrArg List.length hframe
      simp at this
      omega
    have hidx : (BitVec.ofNat 8 (6 + k)).toNat = 6 + k := Nat.mod_eq_of_lt (by have := n.isLt; omega)
    refine ⟨_, exec_ldb_of_lt (by rw [hidx]; omega), rfl, ?_⟩
    rw [← hread, bufBytes_getElem? t 0 hn, Nat.zero_add, finish_rdata, setRdata_rdata, hidx]
end

section
/-! SUPPORT. How a command word ends: BadOp for the reserved rows and for no other. -/

namespace Sys2Proof.Machine

theorem Decoded.code_ne_badOp (d : Decoded) : d.code ≠ .badOp := by
  cases d with
  | ok dir payload => nofun
  | error e => cases e <;> nofun

/-- Turned away by its operand check an operation ends BadArg, so only what follows the check can end otherwise. -/
theorem result_ne_badOp_of_check {bad : Bool} {pr : Prog} {s : State} (h : (pr.run s).result ≠ .badOp) :
    ((if bad = true then .finish .badArg else pr).run s).result ≠ .badOp := by
  split
  · nofun
  · exact h

theorem cmd_result_ne_badOp {s t : State} {len : Byte} {T : BitVec 16} (h : exec (.cmd len T) s = .next t) :
    t.result ≠ .badOp := by
  obtain rfl | ⟨c, u, hend, rfl⟩ := exec_cmd_cases h
  · nofun
  · cases hend <;> nofun

/-- An instruction of a command word that is not reserved does not end BadOp (spec/30_encoding R71). -/
theorem exec_result_ne_badOp {i : Instr} (hw : isWireFormat i = false) (hr : isReserved i = false) (s : State) :
    ∃ t, exec i s = .next t ∧ t.result ≠ .badOp := by
  refine ⟨_, exec_eq_run i s hw, ?_⟩
  cases i with
  | sel | dsl | wrb | rdb => nofun
  | stb x v => exact result_ne_badOp_of_check nofun
  | ldb x => exact result_ne_badOp_of_check nofun
  | txc len =>
    refine result_ne_badOp_of_check ?_
    rw [run_txFrame]
    nofun
  | dec n =>
    refine result_ne_badOp_of_check ?_
    rw [run_decodeBuf]
    exact Decoded.code_ne_badOp _
  | poll =>
    rw [program, pollProg, statusPoll, run_statusPollWith]
    nofun
  | wrdy T =>
    refine result_ne_badOp_of_check ?_
    rw [run_waitReady_eq]
    split <;> nofun
  | rack =>
    rw [program, rackProg, run_readAck]
    split <;> nofun
  | rdf n =>
    refine result_ne_badOp_of_check ?_
    rw [run_rawRead, run_decodeBuf]
    exact Decoded.code_ne_badOp _
  | cmd len T => exact cmd_result_ne_badOp rfl
  | reservedOp0 | reservedOpE | reservedOpF | reservedHighNibble => cases hr
  | frame | ack | statusExchange => cases hw

/-- Every reserved row does nothing but finish BadOp (spec/30_encoding R71). -/
theorem exec_reserved {i : Instr} (hr : isReserved i = true) (s : State) :
    exec i s = .next (finish .badOp s) := by
  cases i with
  | reservedOp0 | reservedOpE | reservedOpF | reservedHighNibble => rfl
  | _ => cases hr

end Sys2Proof.Machine

open Sys2Proof Sys2Proof.Machine

/-- Settles O4: the masks of the rule say whether a word is reserved, and a row ends BadOp exactly where it is. -/
theorem reservedWordsFinishBadOp : Obligations.ReservedWordsFinishBadOp := by
  intro s
  have hreserved {i : Instr} (hr : isReserved i = true) : ∃ t, exec i s = .next t ∧ TurnedAway .badOp s t :=
    ⟨_, exec_reserved hr s, turnedAway_finish _ s⟩
  refine ⟨fun _ => hreserved rfl, fun _ => hreserved rfl, fun _ => hreserved rfl, fun _ _ _ => hreserved rfl,
    fun w => ?_⟩
  simp only [← isReserved_decodeWord_iff]
  split
  next hr => exact hreserved hr
  next hr => exact exec_result_ne_badOp (isWireFormat_decodeWord w) (by simpa using hr) s
end

section
/-! SUPPORT. LOAD as a sequence of stores, and the step as the decoder's reading of what the host presents. -/

namespace Sys2Proof.Machine

/-! ### LOAD (spec/30_encoding R75) -/

theorem execAll_cons {i : Instr} {s t : State} (h : exec i s = .next t) (is : List Instr) :
    execAll (i :: is) s = execAll is t := by
  rw [execAll, h]

theorem storeBytes_withLife (e : Eng) (c : Code) (b : Bool) (n i : Nat) (bs : List Byte) (s : State) :
    storeBytes i bs (withLife e c b n s) = withLife e c b n (storeBytes i bs s) := by
  induction bs generalizing i s with
  | nil => rfl
  | cons v bs ih => exact ih (i + 1) (bufStore i v s)

/-- Bytes that fit BUF are stored in order, each store finishing OK. -/
theorem execAll_stagePayload {i : Nat} {bs : List Byte} {s : State} (h : i + bs.length ≤ s.par.bufCap) :
    execAll (stagePayload i bs) s = .next (withLife s.eng (if bs = [] then s.result else .ok)
      (if bs = [] then s.busy else false) (s.draw + bs.length) (storeBytes i bs s)) := by
  induction bs generalizing i s with
  | nil => rfl
  | cons b bs ih =>
    rw [List.length_cons] at h
    have hidx : (BitVec.ofNat 8 i).toNat = i := by
      have hcap : s.par.bufCap ≤ 255 := by
        have := s.par.bufExtra.isLt
        unfold Config.Params.bufCap
        omega
      exact Nat.mod_eq_of_lt (by omega)
    have hrest := ih (i := i + 1) (s := finish .ok (bufStore i b s)) (by change _ ≤ s.par.bufCap; omega)
    rw [stagePayload, execAll_cons (exec_stb_of_lt b (by rw [hidx]; omega)), hidx, hrest, finish_eq_withLife,
      storeBytes_withLife]
    simp [withLife, storeBytes, Nat.add_assoc, Nat.add_comm 1]

/-! ### What a unit's bytes decode to -/

/-- What is read as a frame is one. -/
theorem exists_frame_of_decodeFrameUnit {bytes : List Byte} {i : Instr} (h : decodeFrameUnit bytes = .ok i) :
    ∃ dir payload, i = .frame dir payload := by
  unfold decodeFrameUnit at h
  dsimp only at h
  repeat' split at h
  all_goals cases h
  exact ⟨_, _, rfl⟩

/-- A unit decodes to a command word's instruction exactly where it has four bytes (log entry 19). -/
theorem isWireFormat_of_decode {bytes : List Byte} {i : Instr} (h : decode bytes = .ok i) :
    isWireFormat i = true ↔ bytes.length ≠ 4 := by
  unfold decode at h
  split at h
  · cases h
    simp [isWireFormat]
  · cases h
    simp [isWireFormat_decodeWord]
  · split at h <;> cases h
    simp [isWireFormat]
  next hn2 hn4 hn6 =>
    split at h
    · cases h
    next hlong =>
      obtain ⟨dir, payload, rfl⟩ := exists_frame_of_decodeFrameUnit h
      simp only [isWireFormat, true_iff]
      omega

/-- Bytes that are no command word are put on the wire (log entry 19). -/
theorem presentUnit_of_length {bytes : List Byte} (h : bytes.length ≠ 4) : presentUnit bytes = .wire bytes := by
  unfold presentUnit
  split
  · exact absurd rfl h
  · rfl

end Sys2Proof.Machine

open Sys2Proof Sys2Proof.Machine

/-- Settles O13: LOAD's stores come to the payload stored at BUF[0 ..], and to as many uses. -/
theorem loadStagesThePayload : Obligations.LoadStagesThePayload := by
  intro s payload hlen
  have hbyte := get?_storeBytes 0 payload s
  refine ⟨_, execAll_stagePayload (by omega), fun k hk => ?_, fun k hk => ?_,
    (Traffic.refl s).of_fields (storeBytes_par ..) (storeBytes_trace ..) (storeBytes_ss ..) (storeBytes_mosi ..)
      (storeBytes_sck ..) (storeBytes_wave ..) (storeBytes_dev ..),
    rfl, storeBytes_ready .., storeBytes_rdata .., ⟨storeBytes_rxDir .., storeBytes_rxLen .., storeBytes_rxValid ..⟩,
    ⟨storeBytes_ovr .., storeBytes_host .., storeBytes_answers ..⟩, rfl, ?_⟩
  · exact (hbyte k).trans (if_pos (by omega))
  · exact (hbyte k).trans (if_neg (by omega))
  · split
    next hnil =>
      subst hnil
      rfl
    next => exact ⟨rfl, rfl⟩

/-- Settles O46: the number of a unit's bytes says both what it decodes to and how it is presented. -/
theorem stepRunsTheDecodedInstruction : Obligations.StepRunsTheDecodedInstruction := by
  have command (s : State) (w : Word) (later : List HostAct) (hb : s.busy = false)
      (hh : s.host = .write .cmdw w [] :: later) :
      step s = exec (decodeWord w) { s with host := later, busy := true } := by
    rw [step_of_command hb hh, exec_eq_run _ _ (isWireFormat_decodeWord w)]
    rfl
  have wire (s : State) (bytes : List Byte) (i : Instr) (later : List HostAct) (hh : s.host = .wire bytes :: later)
      (hdec : decode bytes = .ok i) (hlen : bytes.length ≠ 4) : step s = exec i { s with host := later } := by
    rw [step_of_host_cons hh, hostAct, wireTransaction, hdec]
    exact if_pos ((isWireFormat_of_decode hdec).mpr hlen)
  refine ⟨command, wire, fun s nbits w i hdec => ?_⟩
  have hdec : decode (tableBytes nbits w) = .ok i := by
    unfold decodeTableWord at hdec
    split at hdec
    next j hj => rw [hj, Option.some.inj hdec]
    next => cases hdec
  rw [State.withFetchWord]
  generalize tableBytes nbits w = bytes at hdec
  have hwire := isWireFormat_of_decode hdec
  by_cases hlen : bytes.length = 4
  · match bytes, hlen with
    | [b0, b1, b2, b3], _ =>
      cases hdec
      rw [command (present [b0, b1, b2, b3] s) _ s.host rfl rfl, isWireFormat_decodeWord]
      rfl
  · rw [wire (present bytes s) bytes i s.host (congrArg (· :: s.host) (presentUnit_of_length hlen)) hdec hlen,
      hwire.mpr hlen]
    rfl
end

section
/-! SUPPORT. The opcode table's wire-format rows, each as the transaction that carries it: the bytes read are those the
device was given, and nothing but the pins, their records, the script and what the row says it writes changes. -/

namespace Sys2Proof.Machine

/-! ### The bytes a transaction reads -/

theorem readsOf_map_w (bs : List Byte) : readsOf (bs.map .w) = [] := by
  induction bs with
  | nil => rfl
  | cons b bs ih => exact ih

theorem readsOf_map_r (bs : List Byte) : readsOf (bs.map .r) = bs := by
  induction bs with
  | nil => rfl
  | cons b bs ih => exact congrArg (b :: ·) ih

theorem readsOf_frameWrite (p : Config.Params) (bs : List Byte) : readsOf (frameWrite p bs) = [] := by
  simp [frameWrite, readsOf_append, readsOf_map_w, readsOf, -List.map_append]

theorem readsOf_bytesRead (p : Config.Params) (bs : List Byte) : readsOf (bytesRead p bs) = bs := by
  simp [bytesRead, readsOf_append, readsOf_map_w, readsOf_map_r, readsOf]

/-- A read transaction reads the bytes that stand first in the device's script. -/
theorem readBytes_of_script {p : Config.Params} {bs later : List Byte} {s : State} (h : s.dev = bs ++ later) :
    readBytes p bs.length s = bs := by
  refine nextBytes_of_script bs later _ ?_
  rw [(wired_readBegun p s).traffic.script, readsOf_append, readsOf_map_w, ← h]
  rfl

/-- Those bytes are then gone from the script. -/
theorem wired_readDone_of_script {p : Config.Params} {bs later : List Byte} {s : State} (h : s.dev = bs ++ later) :
    Wired s (readDone p bs.length s) (bytesRead p bs) ∧ (readDone p bs.length s).dev = later := by
  have hdone := wired_readDone p bs.length s
  rw [readBytes_of_script h] at hdone
  refine ⟨hdone, ?_⟩
  rw [hdone.traffic.script, readsOf_bytesRead, h, List.drop_left]

/-- A stretch on the wire changes nothing but the pins, their records and the script. -/
theorem Wired.eq_of_kept {s t : State} {es : List Event} (h : Wired s t es) :
    t = { s with trace := t.trace, wave := t.wave, ss := t.ss, sck := t.sck, mosi := t.mosi, dev := t.dev } := by
  obtain ⟨htraffic, hkept⟩ := h
  cases s
  cases t
  simp only [State.mk.injEq, true_and]
  exact ⟨htraffic.par, hkept.busy, hkept.ready, hkept.ovr, hkept.eng, hkept.result, hkept.rdata, hkept.rxDir,
    hkept.rxLen, hkept.rxValid, hkept.buf, hkept.host, hkept.answers, hkept.draw⟩

/-! ### The rows (spec/30_encoding R62, R63, R64; log entries 6, 7, 8, 21) -/

theorem exec_frame_hostToDevice (payload : List Byte) (s : State) :
    exec (.frame .hostToDevice payload) s = .next (sendFrame s.par (frame 0xD4 payload) s) := by
  simp only [exec, execFrame, frameProg, frameWriteProg, Prog.run_select, Prog.run_writes, Prog.run_deselect,
    Prog.run_done, sendFrame, spiWrites_append]
  rfl

/-- The part of a device's frame that BUF holds (log entry 8). -/
def frameGot (s : State) (payload : List Byte) : List Byte := (frame 0xD5 payload).take s.par.bufCap

/-- The script holds the part of the frame that is read, then the rest of it (spec/70_reset_and_hazards R225). -/
theorem supply_frame_dev (s : State) (payload : List Byte) :
    (supply (frame 0xD5 payload) s).dev = frameGot s payload ++ ((frame 0xD5 payload).drop s.par.bufCap ++ s.dev) := by
  rw [← List.append_assoc, frameGot, List.take_append_drop, supply_dev]

theorem exec_frame_deviceToHost (payload : List Byte) (s : State) :
    exec (.frame .deviceToHost payload) s = .next (storeBytes 0 (frameGot s payload)
      (readDone s.par (frameGot s payload).length (supply (frame 0xD5 payload) s))) := by
  have hlen : min (frame 0xD5 payload).length s.par.bufCap = (frameGot s payload).length := by
    rw [frameGot, List.length_take, Nat.min_comm]
  have hread := readBytes_of_script (p := s.par) (supply_frame_dev s payload)
  have hrun := run_rawRead s.par (frameGot s payload).length .done (supply (frame 0xD5 payload) s)
  rw [hread, ← hlen] at hrun
  rw [← hlen]
  exact congrArg _ hrun

theorem exec_ack (s : State) : exec .ack s = .next (readDone s.par 6 (supply ackBytes s)) := by
  simp [exec, execAck, ackProg]

/-- A status poll reads the byte the device was given. -/
theorem pollValue_supply (q r : Byte) (s : State) : pollValue q (supply [r] s) = r := by
  rw [pollValue, spiWrite_eq]
  rfl

theorem exec_statusExchange (q r : Byte) (s : State) :
    exec (.statusExchange q r) s = .next (setReady r (pollDone q (supply [r] s))) := by
  simp [exec, execStatusExchange, statusExchangeProg, pollValue_supply]

end Sys2Proof.Machine

open Sys2Proof Sys2Proof.Machine

/-- Settles O56, row by row: the transaction from the state in which the device is to drive its bytes. -/
theorem wireFormatTransactions : Obligations.WireFormatTransactions := by
  intro s payload q r
  refine ⟨⟨_, exec_frame_hostToDevice payload s, ?_⟩, ⟨_, exec_frame_deviceToHost payload s, ?_⟩,
    ⟨_, exec_ack s, ?_⟩, ⟨_, exec_statusExchange q r s, ?_⟩⟩
  · have hsent := wired_sendFrame s.par (frame 0xD4 payload) s
    have hdev : (sendFrame s.par (frame 0xD4 payload) s).dev = s.dev := by
      rw [hsent.traffic.script, readsOf_frameWrite]
      rfl
    exact ⟨hsent.traffic, hsent.eq_of_kept.trans (by rw [hdev]; rfl)⟩
  · obtain ⟨hdone, hdev⟩ := wired_readDone_of_script (p := s.par) (supply_frame_dev s payload)
    have hss : (readDone s.par (frameGot s payload).length (supply (frame 0xD5 payload) s)).ss = true := rfl
    generalize readDone s.par (frameGot s payload).length (supply (frame 0xD5 payload) s) = t at *
    have hbyte := get?_storeBytes 0 (frameGot s payload) t
    refine ⟨hdone.traffic.of_fields (storeBytes_par ..) (storeBytes_trace ..) (storeBytes_ss ..) (storeBytes_mosi ..)
      (storeBytes_sck ..) (storeBytes_wave ..) (storeBytes_dev ..), (storeBytes_dev ..).trans hdev,
      fun k (hk : k < (frameGot s payload).length) => ?_, fun k (hk : (frameGot s payload).length ≤ k) => ?_, ?_⟩
    · exact (hbyte k).trans (if_pos (by omega))
    · exact ((hbyte k).trans (if_neg (by omega))).trans (congrArg (·.get? k) hdone.kept.buf)
    · have ht := congrArg (fun v : State => { v with buf := (storeBytes 0 (frameGot s payload) t).buf })
        hdone.eq_of_kept
      refine (storeBytes_eq ..).trans (ht.trans ?_)
      simp only [storeBytes_trace, storeBytes_wave, storeBytes_sck, storeBytes_mosi, storeBytes_dev, hss]
      rfl
  · obtain ⟨hdone, hdev⟩ := wired_readDone_of_script (p := s.par) (bs := ackBytes) (s := supply ackBytes s) rfl
    exact ⟨hdone.traffic, hdone.eq_of_kept.trans (by rw [hdev]; rfl)⟩
  · have hpoll := wired_pollDone q (supply [r] s)
    have hdev : (pollDone q (supply [r] s)).dev = s.dev := hpoll.traffic.script
    rw [pollValue_supply] at hpoll
    exact ⟨hpoll.traffic.of_fields rfl rfl rfl rfl rfl rfl rfl, isReady_iff r,
      (congrArg (setReady r) hpoll.eq_of_kept).trans (by rw [hdev]; rfl)⟩
end

section
/-! SUPPORT. The bus transport's operations as the one primitive each runs, the pin record of a byte slot by slot, and
that every transaction of the codec and the engine ends with SS = 1. -/

namespace Sys2Proof.Machine

/-! ### The raw operations (spec/40_bus_transport R96 to R99) -/

theorem exec_sel (s : State) : exec .sel s = .next (finish .ok (select s)) := rfl

theorem exec_dsl (s : State) : exec .dsl s = .next (finish .ok (deselect s)) := rfl

theorem exec_wrb (v : Byte) (s : State) : exec (.wrb v) s = .next (finish .ok (spiWrite v s)) := rfl

theorem exec_rdb (s : State) : exec .rdb s = .next (finish .ok (setRdata (deviceByte s) (spiRead s))) := by
  simp [exec, execRdb, rdbProg]

/-! ### The slots of a byte (spec/40_bus_transport R91, R94, R95) -/

theorem wireBits_eq_map (b : Byte) : wireBits b = (List.range 8).map b.getLsbD := rfl

theorem spiWrite_wave (v : Byte) (s : State) :
    (spiWrite v s).wave = s.wave ++ (List.range 8).flatMap fun k => writeSlotWave s.par (v.getLsbD k) := by
  rw [spiWrite_eq, wireBits_eq_map, List.flatMap_map]

theorem spiRead_wave (s : State) :
    (spiRead s).wave = s.wave ++ (List.range 8).flatMap fun k => readSlotWave s.par ((deviceByte s).getLsbD k) := by
  rw [spiRead_eq, wireBits_eq_map, List.flatMap_map]

theorem writeSlotWave_of_mode_zero {p : Config.Params} (hpol : p.cpol = false) (hpha : p.cpha = false) (bit : Bool) :
    writeSlotWave p bit = [.mosi bit, .sck true, .sck false] := by
  simp [writeSlotWave, hpol, hpha]

theorem readSlotWave_of_mode_zero {p : Config.Params} (hpol : p.cpol = false) (hpha : p.cpha = false) (bit : Bool) :
    readSlotWave p bit = [.sck true, .sample bit, .sck false] := by
  simp [readSlotWave, hpol, hpha]

/-! ### Closed brackets (spec/40_bus_transport R100) -/

/-- SS = 1 after each poll, and the wait's delays leave it. -/
theorem run_waitLoop_ss (p : Config.Params) (T fuel elapsed : Nat) {s : State} (h : 0 < fuel ∨ s.ss = true) :
    ((waitLoop p T fuel elapsed fun _ => .done).run s).ss = true := by
  induction fuel generalizing elapsed s with
  | zero => exact h.resolve_left (Nat.lt_irrefl 0)
  | succ fuel ih =>
    rw [waitLoop_succ, statusPoll, run_statusPollWith]
    split
    · rfl
    · split
      · rfl
      · exact ih _ (.inr rfl)

theorem waitDone_ss (p : Config.Params) (T : Nat) (s : State) : (waitDone p T s).ss = true :=
  run_waitLoop_ss p T _ 0 (.inl (Nat.succ_pos _))

theorem RequestEnds.ss {s t : State} {T : BitVec 16} {c : Code} (h : RequestEnds s T c t) : t.ss = true := by
  cases h with
  | late hw => exact hw ▸ waitDone_ss _ _ _
  | unacknowledged => rfl
  | lateAgain _ _ _ hv | complete _ _ _ hv => exact hv ▸ waitDone_ss _ _ _

theorem RequestEnds.code_ne_badArg {s t : State} {T : BitVec 16} {c : Code} (h : RequestEnds s T c t) :
    c ≠ .badArg := by
  cases h <;> nofun

theorem Decoded.code_ne_badArg (d : Decoded) : d.code ≠ .badArg := by
  cases d with
  | ok dir payload => nofun
  | error e => cases e <;> nofun

theorem exec_poll (s : State) :
    exec .poll s = .next (finish .ok (setRdata (pollValue s.par.statusReq s)
      (setReady (pollValue s.par.statusReq s) (pollDone s.par.statusReq s)))) := by
  simp only [exec, execPoll, pollProg, statusPoll, run_statusPollWith, Prog.run_rdata, Prog.run_finish]

/-- How an operation leaves SS that closes what it opens: as it was where it was turned away, at 1 where it ran. -/
def BracketClosed (s t : State) : Prop := if t.result = .badArg then t.ss = s.ss else t.ss = true

theorem BracketClosed.of_turnedAway {i : Instr} {s t : State} (h : exec i s = .next t)
    (hrun : exec i s = .next (finish .badArg s)) : BracketClosed s t := by
  obtain rfl := Host.Outcome.next.inj (hrun.symm.trans h)
  exact (if_pos rfl).mpr rfl

theorem BracketClosed.of_finish {i : Instr} {s t u : State} {c : Code} (h : exec i s = .next t)
    (hrun : exec i s = .next (finish c u)) (hc : c ≠ .badArg) (hss : u.ss = true) : BracketClosed s t := by
  obtain rfl := Host.Outcome.next.inj (hrun.symm.trans h)
  exact (if_neg hc).mpr hss

theorem bracketClosed_cmd {s t : State} {len : Byte} {T : BitVec 16} (h : exec (.cmd len T) s = .next t) :
    BracketClosed s t := by
  obtain rfl | ⟨c, u, hend, rfl⟩ := exec_cmd_cases h
  · exact .of_turnedAway h h
  · exact (if_neg hend.code_ne_badArg).mpr hend.ss

end Sys2Proof.Machine

open Sys2Proof Sys2Proof.Machine

/-- Settles O38, operation by operation: turned away it moved no pin, and else its last transaction ended with
`Deselect()`. -/
theorem bracketsAreClosed : Obligations.BracketsAreClosed := by
  intro i s t hi h
  change BracketClosed s t
  obtain ⟨len, rfl⟩ | rfl | ⟨T, rfl⟩ | rfl | ⟨n, rfl⟩ | ⟨len, T, rfl⟩ := hi
  · by_cases hbad : 62 < len.toNat
    · exact .of_turnedAway h (exec_txc_of_bad hbad)
    · exact .of_finish h (exec_txc_of_le hbad) nofun rfl
  · exact .of_finish h (exec_poll s) nofun rfl
  · by_cases hT : T = 0
    · subst hT
      exact .of_turnedAway h (exec_wrdy_of_zero s)
    · exact .of_finish h (exec_wrdy_of_ne hT) (by split <;> nofun) (waitDone_ss ..)
  · exact .of_finish h (exec_rack s) (by split <;> nofun) rfl
  · by_cases hbad : n = 0 ∨ s.par.bufCap < n.toNat
    · exact .of_turnedAway h (exec_rdf_of_bad hbad)
    · exact .of_finish h (exec_rdf_of_good hbad) (Decoded.code_ne_badArg _) (by rw [setRxinfo_ss, storeBytes_ss]; rfl)
  · exact bracketClosed_cmd h

/-- Settles O6: WRB is one `SpiWrite`, whose slots have at mode 0 the order of R94. -/
theorem writeByteClocksBitZeroFirst : Obligations.WriteByteClocksBitZeroFirst := by
  intro s v
  have hw := wired_spiWrite v s
  refine ⟨_, exec_wrb v s, .of_wired hw, hw.traffic.mosi, hw.traffic.ss, fun hpol hpha => ?_⟩
  simp only [finish_wave, spiWrite_wave, writeSlotWave_of_mode_zero hpol hpha]

/-- Settles O7: RDB is one `SpiRead`, whose byte goes to RDATA and whose slots have at mode 0 the order of R95. -/
theorem readByteSamplesBitZeroFirst : Obligations.ReadByteSamplesBitZeroFirst := by
  intro s
  have hexec := exec_rdb s
  have hdev : (spiRead s).dev = s.dev.tail := rfl
  have hwave := spiRead_wave s
  obtain ⟨htraffic, hkept⟩ := wired_spiRead s
  generalize spiRead s = t at *
  refine ⟨_, deviceByte s, hexec, rfl, rfl, ⟨rfl, rfl, by simp [hkept.draw]⟩,
    htraffic.of_fields rfl rfl rfl rfl rfl rfl rfl, ⟨hkept.ovr, hkept.host, hkept.answers⟩,
    ⟨hkept.rxDir, hkept.rxLen, hkept.rxValid⟩, fun k => congrArg (·.get? k) hkept.buf, hkept.eng, hkept.ready,
    htraffic.ss, htraffic.mosi, hdev, fun hpol hpha => ?_⟩
  simp only [finish_wave, setRdata_wave, hwave, readSlotWave_of_mode_zero hpol hpha]

/-- Settles O8: the slots of `SpiWrite` and `SpiRead` are those of the mode, and each ends with SCK at rest. -/
theorem slotShapeFollowsPolarityAndPhase : Obligations.SlotShapeFollowsPolarityAndPhase := fun s v =>
  ⟨⟨_, exec_wrb v s, (traffic_spiWrite v s).sck, spiWrite_wave v s⟩,
    ⟨_, exec_rdb s, (traffic_spiRead s).sck, spiRead_wave s⟩⟩

/-- Settles O5: SEL and DSL are one primitive each, which moves SS alone. -/
theorem selectAndDeselect : Obligations.SelectAndDeselect := fun s =>
  ⟨⟨_, exec_sel s, .of_wired (wired_select s), rfl, rfl, rfl⟩,
    ⟨_, exec_dsl s, .of_wired (wired_deselect s), rfl, rfl, rfl⟩⟩
end

section
/-! SUPPORT. What the decoder says of bytes, step by step, and of a frame whole, cut or damaged; DEC in one equation. -/

namespace Sys2Proof.Machine

/-! ### The decoder's steps (spec/41_frame_codec R120) -/

theorem decodeFrame_of_length_lt_three {raw : List Byte} (h : raw.length < 3) :
    decodeFrame raw = .error .shortFrame := by
  rw [decodeFrame, if_pos h]

theorem decodeFrame_of_start_ne {a b c : Byte} (rest : List Byte) (h : [a, b, c] ≠ startBytes) :
    decodeFrame (a :: b :: c :: rest) = .error .preambleMismatch := by
  rw [decodeFrame, if_neg (by simp)]
  exact if_pos h

/-- The decoder past the preamble and the two bytes of the length: steps 4 to 8. -/
theorem decodeFrame_of_start (l k : Byte) (rest : List Byte) :
    decodeFrame (0x00 :: 0x00 :: 0xFF :: l :: k :: rest) =
      if l + k ≠ 0 then .error .lengthChecksumMismatch
      else if l = 0 then .error .shortFrame
      else if rest.length < l.toNat + 1 then .error .shortFrame
      else if sum8 (rest.take (l.toNat + 1)) ≠ 0 then .error .payloadChecksumMismatch
      else .ok (rest.getD 0 0) (rest.tail.take (l.toNat - 1)) := by
  have hshort : (0x00 :: 0x00 :: 0xFF :: l :: k :: rest : List Byte).length < 6 + l.toNat ↔
      rest.length < l.toNat + 1 := by
    simp only [List.length_cons]
    omega
  rw [decodeFrame, if_neg (by simp), if_neg (by simp [startBytes]), if_neg (by simp)]
  simp only [hshort, List.getD_cons_succ, List.getD_cons_zero, List.drop_succ_cons, List.drop_zero, List.drop_one]

/-! ### A frame for the decoder (spec/41_frame_codec R111, R118) -/

/-- The bytes of a frame that DCS makes sum to 0: DIR, the payload and DCS itself. -/
def checkedBytes (d : Byte) (payload : List Byte) : List Byte := d :: (payload ++ [neg8 (d + sum8 payload)])

@[simp] theorem checkedBytes_length (d : Byte) (payload : List Byte) :
    (checkedBytes d payload).length = payload.length + 2 := by
  simp [checkedBytes]

theorem sum8_checkedBytes (d : Byte) (payload : List Byte) : sum8 (checkedBytes d payload) = 0 := by
  rw [checkedBytes, sum8_cons, sum8_append, ← BitVec.add_assoc]
  rw [sum8_cons, sum8_nil, add_zero, add_neg8]

theorem frame_eq_checkedBytes (d : Byte) (payload : List Byte) :
    frame d payload = 0x00 :: 0x00 :: 0xFF :: lenByte payload.length :: neg8 (lenByte payload.length) ::
      (checkedBytes d payload ++ [0x00]) := by
  rw [frame_eq, checkedBytes, List.cons_append, List.append_assoc]
  rfl

/-- A frame cut off within or just after the bytes that DCS covers. -/
theorem take_frame (d : Byte) (payload : List Byte) {k : Nat} (h : k ≤ payload.length + 2) :
    (frame d payload).take (k + 5) = 0x00 :: 0x00 :: 0xFF :: lenByte payload.length ::
      neg8 (lenByte payload.length) :: (checkedBytes d payload).take k := by
  rw [frame_eq_checkedBytes]
  simp only [List.take_succ_cons, List.take_append_of_le_length (h.trans (checkedBytes_length d payload).ge)]

/-- After an intact header the decoder looks at as many bytes as LEN says, and one more. -/
theorem decodeFrame_of_header {n : Nat} (h : n ≤ 254) {checked : List Byte} (hlen : checked.length = n + 2)
    (rest : List Byte) :
    decodeFrame (0x00 :: 0x00 :: 0xFF :: lenByte n :: neg8 (lenByte n) :: (checked ++ rest)) =
      if sum8 checked ≠ 0 then .error .payloadChecksumMismatch
      else .ok (checked.getD 0 0) (checked.tail.take n) := by
  have hl := lenByte_toNat h
  have hzero : ¬ lenByte n = 0 := fun h0 => by rw [h0] at hl; cases hl
  have hcut : (checked ++ rest).take (n + 2) = checked := by rw [← hlen, List.take_left]
  rw [decodeFrame_of_start, if_neg (not_not_intro (add_neg8 _)), if_neg hzero, hl,
    if_neg (by rw [List.length_append]; omega), hcut]
  match checked, hlen with
  | d :: tail, hlen =>
    have hle : n ≤ tail.length := by simp at hlen; omega
    simp only [List.cons_append, List.tail_cons, Nat.add_sub_cancel, List.take_append_of_le_length hle]
    rfl

/-- A frame without its postamble and with anything after it is decoded. -/
theorem decodeFrame_checkedBytes (d : Byte) {payload : List Byte} (h : payload.length ≤ 254) (rest : List Byte) :
    decodeFrame (0x00 :: 0x00 :: 0xFF :: lenByte payload.length :: neg8 (lenByte payload.length) ::
      (checkedBytes d payload ++ rest)) = .ok d payload := by
  rw [decodeFrame_of_header h (checkedBytes_length d payload), if_neg (not_not_intro (sum8_checkedBytes d payload))]
  simp [checkedBytes]

theorem decodeFrame_take_frame_append (d : Byte) {payload : List Byte} (h : payload.length ≤ 254)
    (rest : List Byte) :
    decodeFrame ((frame d payload).take (payload.length + 7) ++ rest) = .ok d payload := by
  rw [take_frame d payload le_rfl, List.take_of_length_le (checkedBytes_length d payload).le]
  exact decodeFrame_checkedBytes d h rest

/-- One byte more cut off is one too many. -/
theorem decodeFrame_take_frame_short (d : Byte) {payload : List Byte} (h : payload.length ≤ 254) :
    decodeFrame ((frame d payload).take (payload.length + 6)) = .error .shortFrame := by
  have hcut : ((checkedBytes d payload).take (payload.length + 1)).length < (lenByte payload.length).toNat + 1 := by
    rw [List.length_take, lenByte_toNat h]
    omega
  rw [take_frame d payload (Nat.le_succ _), decodeFrame_of_start, if_neg (not_not_intro (add_neg8 _)), if_pos hcut,
    ite_self]

/-! ### A damaged frame (spec/41_frame_codec R123) -/

/-- Replacing one byte changes the sum by the difference of the two bytes. -/
theorem sum8_set {bs : List Byte} {j : Nat} {old : Byte} (h : bs[j]? = some old) (new : Byte) :
    sum8 (bs.set j new) = sum8 bs + (new - old) := by
  induction bs generalizing j with
  | nil => cases h
  | cons b bs ih =>
    cases j with
    | zero =>
      obtain rfl : b = old := Option.some.inj h
      simp only [List.set_cons_zero, sum8_cons]
      ring
    | succ j => rw [List.set_cons_succ, sum8_cons, sum8_cons, ih h, BitVec.add_assoc]

/-- A damaged byte among those that DCS covers. -/
theorem decodeFrame_of_damaged_checked {d old new : Byte} {payload : List Byte} {j : Nat} (h : payload.length ≤ 254)
    (hold : (checkedBytes d payload)[j]? = some old) (hne : new ≠ old) (rest : List Byte) :
    decodeFrame (0x00 :: 0x00 :: 0xFF :: lenByte payload.length :: neg8 (lenByte payload.length) ::
      ((checkedBytes d payload).set j new ++ rest)) = .error .payloadChecksumMismatch := by
  have hsum : sum8 ((checkedBytes d payload).set j new) ≠ 0 := by
    rw [sum8_set hold, sum8_checkedBytes, zero_add]
    exact sub_ne_zero.mpr hne
  rw [decodeFrame_of_header h (by simp), if_pos hsum]

theorem decodeFrame_of_lcs_ne {l k : Byte} (rest : List Byte) (h : k ≠ neg8 l) :
    decodeFrame (0x00 :: 0x00 :: 0xFF :: l :: k :: rest) = .error .lengthChecksumMismatch := by
  rw [decodeFrame_of_start, if_pos (mt eq_neg8_of_add_eq_zero h)]

theorem neg8_injective : Function.Injective neg8 := fun u v h => by
  rw [neg8_eq_neg, neg8_eq_neg] at h
  exact neg_injective h

/-! ### DEC in one equation (spec/41_frame_codec R121) -/

theorem exec_dec_of_bad {s : State} {n : Byte} (h : n = 0 ∨ s.par.bufCap < n.toNat) :
    exec (.dec n) s = .next (finish .badArg s) := by
  simp only [exec, execDec, decProg, if_pos ((badCount_iff s.par n).mpr h), Prog.run_finish]

theorem exec_dec_of_good {s : State} {n : Byte} (h : ¬ (n = 0 ∨ s.par.bufCap < n.toNat)) :
    exec (.dec n) s = .next (finish (decodeFrame (bufBytes s 0 n.toNat)).code
      (setRxinfo (decodeFrame (bufBytes s 0 n.toNat)) s)) := by
  have hok : ¬ badCount s.par n = true := by rwa [badCount_iff]
  simp only [exec, execDec, decProg, if_neg hok, run_decodeBuf]

/-- Reporting a decode moves no pin and takes no byte from the device. -/
theorem traffic_setRxinfo (x : Decoded) (s : State) : Traffic s (setRxinfo x s) [] := by
  cases x <;> exact (Traffic.refl s).of_fields rfl rfl rfl rfl rfl rfl rfl

theorem rxinfoWord_setRxinfo_error (e : FrameError) (s : State) : rxinfoWord (setRxinfo (.error e) s) = 0 := by
  have hword : (0 : BitVec 15) ++ BitVec.ofBool false ++ (0 : Byte) ++ (0 : Byte) = (0 : Word) := by decide
  exact hword

end Sys2Proof.Machine

open Sys2Proof Sys2Proof.Machine

/-- Settles O18: accepted bytes have a frame's shape (`eq_frame_of_decodeFrame_ok`), and bytes of that shape pass every
check. -/
theorem decoderAcceptsExactlyFrames : Obligations.DecoderAcceptsExactlyFrames := by
  intro raw d payload
  constructor
  · exact fun h => ⟨decodeFrame_ok_length h, eq_frame_of_decodeFrame_ok h⟩
  · rintro ⟨hlen, rest, rfl⟩
    exact decodeFrame_take_frame_append d hlen rest

/-- Settles O14: `neg8` is negation and `sum8` the list's sum, both of the ring of bytes. -/
theorem checksumLaws : Obligations.ChecksumLaws := by
  refine ⟨fun v => ⟨add_neg8 v, ?_, ?_⟩, fun v hv => ?_, rfl, fun d payload => add_neg8 _, fun p q h => ?_,
    sum8_append⟩
  · rw [neg8_eq_neg, neg8_eq_neg, neg_neg]
  · rw [neg8_eq_neg, BitVec.neg_eq_not_add]
    rfl
  · have hpos : v.toNat ≠ 0 := fun h => hv (BitVec.eq_of_toNat_eq h)
    rw [neg8_eq_neg, BitVec.toNat_neg]
    omega
  · rw [sum8_eq_sum, sum8_eq_sum, h.sum_eq]

/-- Settles O16: in range TXC is one frame write (`wired_frameSent`), out of range it finishes at once. -/
theorem transmitSendsTheFrame : Obligations.TransmitSendsTheFrame := by
  intro s len
  by_cases h : 62 < len.toNat
  · refine ⟨_, exec_txc_of_bad h, ?_⟩
    rw [if_neg (Nat.not_le.mpr h)]
    exact turnedAway_finish _ s
  · refine ⟨_, exec_txc_of_le h, ?_⟩
    rw [if_pos (Nat.not_lt.mp h)]
    exact .of_wired (wired_frameSent s len)

/-- Settles O17: in range DEC sets RXINFO to the decode and finishes with its code, out of range it finishes at once. -/
theorem decodeOperationReports : Obligations.DecodeOperationReports := by
  intro s n
  have hrange : 1 ≤ n.toNat ∧ n.toNat ≤ s.par.bufCap ↔ ¬ (n = 0 ∨ s.par.bufCap < n.toNat) := by
    rw [← BitVec.toNat_inj]
    change _ ↔ ¬ (n.toNat = 0 ∨ _)
    omega
  by_cases hbad : n = 0 ∨ s.par.bufCap < n.toNat
  · refine ⟨_, exec_dec_of_bad hbad, ?_⟩
    rw [if_neg fun h => hrange.mp h hbad]
    exact turnedAway_finish _ s
  · refine ⟨_, exec_dec_of_good hbad, ?_⟩
    rw [if_pos (hrange.mpr hbad)]
    generalize hx : decodeFrame (bufBytes s 0 n.toNat) = x
    refine ⟨⟨rfl, rfl, by simp⟩, (traffic_setRxinfo x s).of_fields rfl rfl rfl rfl rfl rfl rfl,
      ⟨by simp, by simp, by simp⟩, fun i => by simp, by simp, by simp, by simp, ?_⟩
    cases x with
    | ok d payload => exact ⟨rfl, Nat.mod_eq_of_lt (by have := decodeFrame_ok_length hx; omega), rfl⟩
    | error e => exact rxinfoWord_setRxinfo_error e s

/-- Settles O19: each step of the decoder by the equation of the steps before it. -/
theorem decoderErrorsInOrder : Obligations.DecoderErrorsInOrder := by
  intro a b c l k rest
  refine ⟨fun _ => decodeFrame_of_length_lt_three, decodeFrame_of_start_ne rest, ⟨rfl, rfl⟩, fun hlcs => ?_, ?_,
    fun hlcs hshort => ?_, fun hlcs hzero hlen hdcs => ?_⟩
  · rw [decodeFrame_of_start, if_pos hlcs]
  · rw [decodeFrame_of_start]
    rfl
  · rw [decodeFrame_of_start, if_neg (not_not_intro hlcs), if_pos hshort, ite_self]
  · rw [decodeFrame_of_start, if_neg (not_not_intro hlcs), if_neg hzero, if_neg (Nat.not_lt.mpr hlen), if_pos hdcs]

/-- Settles O20: the decoder needs a frame's bytes up to DCS, all of them, and looks at none after it. -/
theorem frameRoundTrip : Obligations.FrameRoundTrip := by
  intro d payload trailing hlen
  refine ⟨?_, ?_, decodeFrame_take_frame_short d hlen⟩
  · rw [← List.take_append_drop (payload.length + 7) (frame d payload), List.append_assoc]
    exact decodeFrame_take_frame_append d hlen _
  · simpa using decodeFrame_take_frame_append d hlen []

/-- Settles O21, by the damaged byte's place: start bytes, LEN, LCS, the bytes that DCS covers, the postamble. Two bytes
of a payload swapped leave the sum as it was. -/
theorem singleByteDamageIsSeen : Obligations.SingleByteDamageIsSeen := by
  refine ⟨fun d payload k old new hlen hold hne => ?_, 0xD4, [0x02, 0x03], [0x03, 0x02], by decide, rfl, by decide⟩
  rw [frame_eq_checkedBytes] at hold ⊢
  match k with
  | 0 | 1 | 2 =>
    obtain rfl := Option.some.inj hold
    exact decodeFrame_of_start_ne _ (by simpa [startBytes] using hne)
  | 3 =>
    obtain rfl := Option.some.inj hold
    exact decodeFrame_of_lcs_ne _ (neg8_injective.ne hne.symm)
  | 4 =>
    obtain rfl := Option.some.inj hold
    exact decodeFrame_of_lcs_ne _ hne
  | j + 5 =>
    rw [if_neg (by omega), if_neg (by omega)]
    simp only [List.getElem?_cons_succ, List.set_cons_succ] at hold ⊢
    have hchecked := checkedBytes_length d payload
    by_cases hj : j < payload.length + 2
    · rw [List.getElem?_append_left (by omega)] at hold
      rw [if_pos (by omega), List.set_append_left _ _ (by omega)]
      exact decodeFrame_of_damaged_checked hlen hold hne _
    · rw [if_neg (by omega), List.set_append_right _ _ (by omega)]
      exact decodeFrame_checkedBytes d hlen _

/-- Settles O22: 00 and FF do not sum to 0 where LEN and LCS stand, and six bytes are too few for a frame. -/
theorem acknowledgementIsNoFrame : Obligations.AcknowledgementIsNoFrame := by
  refine ⟨decodeFrame_of_lcs_ne [0x00] (by decide), fun d payload _ h => ?_⟩
  have hlen : payload.length + 8 = 6 := frame_length d payload ▸ congrArg List.length h
  omega
end

section
/-! SUPPORT. What the protocol engine's operations do on the wire: each wait by the answers it got, and each transaction
by the bytes it read. -/

namespace Sys2Proof.Machine

/-! ### Stretches on the wire that can write READY -/

/-- From `s` to `t` the events `es` happened, and nothing but the pins, their records, the script and READY changed. -/
structure Exchanged (s t : State) (es : List Event) : Prop where
  traffic : Traffic s t es
  kept : CoreKept { s with ready := t.ready } t

theorem CoreKept.withReady {s t : State} (h : CoreKept s t) (b : Bool) :
    CoreKept { s with ready := b } { t with ready := b } := { h with ready := rfl }

theorem Wired.exchanged {s t : State} {es : List Event} (h : Wired s t es) : Exchanged s t es :=
  ⟨h.traffic, h.kept.withReady t.ready⟩

theorem Exchanged.trans {s t u : State} {es fs : List Event} (h : Exchanged s t es) (k : Exchanged t u fs) :
    Exchanged s u (es ++ fs) :=
  ⟨h.traffic.trans k.traffic, (h.kept.withReady u.ready).trans k.kept⟩

/-- What such a stretch leaves as it was, an operation that then writes ENG, RESULT, BUSY and the use count leaves so
too. -/
theorem Exchanged.withLife {s t : State} {es : List Event} (h : Exchanged s t es) (e : Eng) (c : Code) (b : Bool)
    (n : Nat) : Traffic s (withLife e c b n t) es ∧ HostSideKept s (withLife e c b n t) ∧
      RxinfoKept s (withLife e c b n t) ∧ BufKept s (withLife e c b n t) ∧ (withLife e c b n t).rdata = s.rdata :=
  ⟨h.traffic.of_fields rfl rfl rfl rfl rfl rfl rfl, ⟨h.kept.ovr, h.kept.host, h.kept.answers⟩,
    ⟨h.kept.rxDir, h.kept.rxLen, h.kept.rxValid⟩, fun i => congrArg (·.get? i) h.kept.buf, h.kept.rdata⟩

/-- `WaitReady(T)` polls, and READY says at its end what the polls read (spec/42_protocol_engine R144). -/
theorem exchanged_waitDone (p : Config.Params) (T : Nat) (s : State) :
    ∃ vs, Exchanged s (waitDone p T s) (waitPolls p.statusReq vs) ∧
      if (waitDone p T s).ready then ReadyAnswers T vs else TimeoutAnswers T vs := by
  obtain ⟨t, ready, vs, hrun, hwait⟩ := run_waitReady p T s
  have ht : waitDone p T s = t := hrun _
  obtain rfl : t.ready = ready := hwait.kept.ready
  rw [ht]
  exact ⟨vs, ⟨hwait.traffic, hwait.kept⟩, hwait.answers⟩

/-! ### Frame reads (spec/42_protocol_engine R153, R154) -/

theorem count_in_range_iff (p : Config.Params) (n : Byte) :
    1 ≤ n.toNat ∧ n.toNat ≤ p.bufCap ↔ ¬ (n = 0 ∨ p.bufCap < n.toNat) := by
  rw [← BitVec.toNat_inj]
  change _ ↔ ¬ (n.toNat = 0 ∨ _)
  omega

/-- Where BUF holds bytes just stored from index 0 on. -/
theorem bufBytes_storeBytes_of_length {n : Nat} {bs : List Byte} (h : bs.length = n) (s : State) :
    bufBytes (storeBytes 0 bs s) 0 n = bs := h ▸ bufBytes_storeBytes bs s

end Sys2Proof.Machine

open Sys2Proof Sys2Proof.Machine

/-- Settles O23: POLL is one status poll, whose byte goes to RDATA and, compared with 0x01, to READY. -/
theorem pollReadsTheStatusByte : Obligations.PollReadsTheStatusByte := by
  intro s
  have hexec := exec_poll s
  have hss : (pollDone s.par.statusReq s).ss = true := rfl
  obtain ⟨htraffic, hkept⟩ := wired_pollDone s.par.statusReq s
  generalize pollValue s.par.statusReq s = v at *
  generalize pollDone s.par.statusReq s = t at *
  exact ⟨_, v, hexec, htraffic.of_fields rfl rfl rfl rfl rfl rfl rfl, rfl, isReady_iff v,
    ⟨rfl, rfl, congrArg (· + 1) hkept.draw⟩, ⟨hkept.ovr, hkept.host, hkept.answers⟩,
    ⟨hkept.rxDir, hkept.rxLen, hkept.rxValid⟩, fun i => congrArg (·.get? i) hkept.buf, hkept.eng, hss⟩

/-- Settles O24: WRDY is one wait, which ends as READY says, or finishes at once. -/
theorem waitPollsWithinTheBudget : Obligations.WaitPollsWithinTheBudget := by
  intro s T
  by_cases hT : T = 0
  · subst hT
    exact ⟨_, exec_wrdy_of_zero s, (if_pos rfl).mpr (turnedAway_finish _ s)⟩
  · refine ⟨_, exec_wrdy_of_ne hT, ?_⟩
    rw [if_neg hT]
    obtain ⟨vs, hex, hanswers⟩ := exchanged_waitDone s.par T.toNat s
    generalize waitDone s.par T.toNat s = t at *
    obtain ⟨htraffic, hhost, hrxinfo, hbuf, hrdata⟩ :=
      hex.withLife t.eng (if t.ready then .ok else .timeout) false (t.draw + 1)
    have hdraw : t.draw + 1 = s.draw + 1 := congrArg (· + 1) hex.kept.draw
    refine ⟨vs, htraffic, hhost, hrxinfo, hbuf, hex.kept.eng, hrdata, ?_⟩
    cases hready : t.ready with
    | true => exact .inl ⟨by simpa [hready] using hanswers, ⟨rfl, rfl, hdraw⟩, hready⟩
    | false => exact .inr ⟨by simpa [hready] using hanswers, ⟨rfl, rfl, hdraw⟩, hready⟩

/-- Settles O25: RACK is one transaction that reads six bytes and compares them. -/
theorem ackReadComparesSixBytes : Obligations.AckReadComparesSixBytes := by
  intro s
  have hcode : (if isAck (readBytes s.par 6 s) = true then Code.ok else .ackMismatch) =
      if readBytes s.par 6 s = [0x00, 0x00, 0xFF, 0x00, 0xFF, 0x00] then .ok else .ackMismatch := by
    simp only [isAck, beq_iff_eq, ackBytes]
  refine ⟨_, readBytes s.par 6 s, exec_rack s, readBytes_length .., ?_⟩
  rw [hcode]
  exact .of_wired (wired_readDone s.par 6 s)

/-- Settles O26: in range RDF is one read transaction, its bytes stored from index 0 on and decoded. -/
theorem readFrameFillsTheBuffer : Obligations.ReadFrameFillsTheBuffer := by
  intro s n
  by_cases hbad : n = 0 ∨ s.par.bufCap < n.toNat
  · refine ⟨_, exec_rdf_of_bad hbad, ?_⟩
    rw [if_neg fun h => (count_in_range_iff s.par n).mp h hbad]
    exact turnedAway_finish _ s
  · refine ⟨_, exec_rdf_of_good hbad, ?_⟩
    rw [if_pos ((count_in_range_iff s.par n).mpr hbad)]
    have hlen := readBytes_length s.par n.toNat s
    obtain ⟨htraffic, hkept⟩ := wired_readDone s.par n.toNat s
    generalize readBytes s.par n.toNat s = raw at *
    generalize readDone s.par n.toNat s = t at *
    have hbyte := get?_storeBytes 0 raw t
    refine ⟨raw, ?_⟩
    generalize hx : decodeFrame raw = x
    refine ⟨hlen, ?_, ⟨rfl, rfl, by simp [hkept.draw]⟩, fun k hk => ?_, fun k hk => ?_,
      ⟨by simp [hkept.ovr], by simp [hkept.host], by simp [hkept.answers]⟩, by simp [hkept.eng],
      by simp [hkept.ready], by simp [hkept.rdata], ?_⟩
    · exact htraffic.of_fields (by simp) (by simp) (by simp) (by simp) (by simp) (by simp) (by simp)
    · rw [finish_buf, setRxinfo_buf, hbyte, if_pos (by omega), Nat.sub_zero]
    · rw [finish_buf, setRxinfo_buf, hbyte, if_neg (by omega), hkept.buf]
    · cases x with
      | ok d payload => exact ⟨rfl, Nat.mod_eq_of_lt (by have := decodeFrame_ok_length hx; omega), rfl⟩
      | error e => exact rxinfoWord_setRxinfo_error e (storeBytes 0 raw t)

/-- Settles O27: after `RawRead(n)` BUF holds the bytes read, so that DEC decodes what RDF does. -/
theorem readFrameIsRawReadThenDecode : Obligations.ReadFrameIsRawReadThenDecode := by
  intro s n hpos hcap
  have hok := (count_in_range_iff s.par n).mp ⟨hpos, hcap⟩
  rw [run_rawRead, Prog.run_done, exec_rdf_of_good hok, exec_dec_of_good (by rwa [storeBytes_par, readDone_par]),
    bufBytes_storeBytes_of_length (readBytes_length ..)]
end

section
/-! SUPPORT. A request by its events: every way it can go after its frame, how many events that can be, and the way it
goes where the device is prompt. -/

namespace Sys2Proof.Machine

/-! ### The events of a request after its frame (spec/42_protocol_engine R150) -/

/-- What a request puts on the wire and reads after its frame, by the answers of its waits and the acknowledgement; the
code it ends with and READY at its end. -/
inductive RequestEvents (p : Config.Params) (T : Nat) : Code → Bool → List Event → Prop
  /-- The first wait times out. -/
  | late {vs : List Byte} (hvs : TimeoutAnswers T vs) : RequestEvents p T .timeout false (waitPolls p.statusReq vs)
  /-- The six bytes read are not the acknowledgement. -/
  | unacknowledged {vs a : List Byte} (hvs : ReadyAnswers T vs) (hlen : a.length = 6) (ha : a ≠ ackBytes) :
    RequestEvents p T .ackMismatch true (waitPolls p.statusReq vs ++ bytesRead p a)
  /-- The second wait times out. -/
  | lateAgain {vs ws : List Byte} (hvs : ReadyAnswers T vs) (hws : TimeoutAnswers T ws) :
    RequestEvents p T .timeout false
      (waitPolls p.statusReq vs ++ bytesRead p ackBytes ++ waitPolls p.statusReq ws)
  /-- Everything went well. -/
  | complete {vs ws : List Byte} (hvs : ReadyAnswers T vs) (hws : ReadyAnswers T ws) :
    RequestEvents p T .ok true
      (waitPolls p.statusReq vs ++ bytesRead p ackBytes ++ waitPolls p.statusReq ws)

theorem isAck_iff (bytes : List Byte) : isAck bytes = true ↔ bytes = ackBytes := beq_iff_eq

/-- A wait that ended Ready. -/
theorem exchanged_waitDone_of_ready {p : Config.Params} {T : Nat} {s t : State} (ht : waitDone p T s = t)
    (h : t.ready = true) : ∃ vs, Exchanged s t (waitPolls p.statusReq vs) ∧ ReadyAnswers T vs := by
  obtain ⟨vs, hex, hanswers⟩ := exchanged_waitDone p T s
  rw [ht, h] at hanswers
  exact ⟨vs, ht ▸ hex, hanswers⟩

/-- A wait that ended Timeout. -/
theorem exchanged_waitDone_of_late {p : Config.Params} {T : Nat} {s t : State} (ht : waitDone p T s = t)
    (h : t.ready = false) : ∃ vs, Exchanged s t (waitPolls p.statusReq vs) ∧ TimeoutAnswers T vs := by
  obtain ⟨vs, hex, hanswers⟩ := exchanged_waitDone p T s
  rw [ht, h] at hanswers
  exact ⟨vs, ht ▸ hex, by simpa using hanswers⟩

/-- An end of a request makes its events and changes nothing but the pins, their records, the script and READY. -/
theorem RequestEnds.exchanged {s t : State} {T : BitVec 16} {c : Code} (h : RequestEnds s T c t) :
    ∃ es, Exchanged s t es ∧ RequestEvents s.par T.toNat c t.ready es := by
  have hread {w : State} (hack : isAck (readBytes s.par 6 w) = true) :
      Exchanged w (readDone s.par 6 w) (bytesRead s.par ackBytes) :=
    (isAck_iff _).mp hack ▸ (wired_readDone s.par 6 w).exchanged
  cases h with
  | late hw hready =>
    obtain ⟨vs, hex, hvs⟩ := exchanged_waitDone_of_late hw hready
    exact ⟨_, hex, hready ▸ .late hvs⟩
  | @unacknowledged w hw hready hack =>
    obtain ⟨vs, hex, hvs⟩ := exchanged_waitDone_of_ready hw hready
    have hdone := wired_readDone s.par 6 w
    have hready' : (readDone s.par 6 w).ready = true := hdone.kept.ready.trans hready
    have ha : readBytes s.par 6 w ≠ ackBytes := fun h => by simp [(isAck_iff _).mpr h] at hack
    exact ⟨_, hex.trans hdone.exchanged, hready' ▸ .unacknowledged hvs (readBytes_length ..) ha⟩
  | lateAgain hw hready hack hv hready2 =>
    obtain ⟨vs, hex, hvs⟩ := exchanged_waitDone_of_ready hw hready
    obtain ⟨ws, hex2, hws⟩ := exchanged_waitDone_of_late hv hready2
    exact ⟨_, (hex.trans (hread hack)).trans hex2, hready2 ▸ .lateAgain hvs hws⟩
  | complete hw hready hack hv hready2 =>
    obtain ⟨vs, hex, hvs⟩ := exchanged_waitDone_of_ready hw hready
    obtain ⟨ws, hex2, hws⟩ := exchanged_waitDone_of_ready hv hready2
    exact ⟨_, (hex.trans (hread hack)).trans hex2, hready2 ▸ .complete hvs hws⟩

/-! ### How many events (spec/42_protocol_engine R157) -/

theorem ReadyAnswers.length_le {T : Nat} {vs : List Byte} (h : ReadyAnswers T vs) : vs.length ≤ T / 10 + 1 := by
  obtain ⟨_, _, _, hle⟩ := h
  exact hle

/-- Four events for a poll, and one delay between two of them. -/
theorem waitPolls_length (q : Byte) (vs : List Byte) : (waitPolls q vs).length = 5 * vs.length - 1 := by
  induction vs using waitPolls.induct with
  | case1 => rfl
  | case2 v => rfl
  | case3 v w vs ih =>
    simp only [waitPolls, pollExchange, List.length_append, ih, List.length_cons, List.length_nil]
    omega

theorem bytesRead_length (p : Config.Params) (bs : List Byte) :
    (bytesRead p bs).length = p.rxPrefix.length + bs.length + 2 := by
  simp only [bytesRead, List.length_append, List.length_map, List.length_cons, List.length_nil]
  omega

theorem frameWrite_length (p : Config.Params) (bs : List Byte) :
    (frameWrite p bs).length = p.txPrefix.length + bs.length + 2 := by
  simp only [frameWrite, List.length_append, List.length_map, List.length_cons, List.length_nil]
  omega

/-- Two waits and the acknowledgement are the most there is. -/
theorem RequestEvents.length_le {p : Config.Params} {T : Nat} {c : Code} {ready : Bool} {es : List Event}
    (h : RequestEvents p T c ready es) : es.length ≤ 2 * (5 * (T / 10) + 4) + (6 + p.rxPrefix.length + 2) := by
  cases h with
  | late hvs =>
    have := hvs.2
    simp only [waitPolls_length]
    omega
  | unacknowledged hvs hlen _ =>
    have := hvs.length_le
    simp only [List.length_append, waitPolls_length, bytesRead_length, hlen]
    omega
  | lateAgain hvs hws =>
    have := hvs.length_le
    have := hws.2
    simp only [List.length_append, waitPolls_length, bytesRead_length, ackBytes, List.length_cons, List.length_nil]
    omega
  | complete hvs hws =>
    have := hvs.length_le
    have := hws.length_le
    simp only [List.length_append, waitPolls_length, bytesRead_length, ackBytes, List.length_cons, List.length_nil]
    omega

/-- A request adds no more events than its rule allows, whether it is turned away or runs. -/
theorem cmd_trace_length_le {s t : State} {len : Byte} {T : BitVec 16} (h : exec (.cmd len T) s = .next t) :
    t.trace.length ≤ s.trace.length + (len.toNat + 8 + s.par.txPrefix.length + 2) + 2 * (4 * 6554 + 6553)
      + (6 + s.par.rxPrefix.length + 2) := by
  obtain rfl | ⟨c, u, hend, rfl⟩ := exec_cmd_cases h
  · rw [finish_trace]
    omega
  · have hsent := (wired_frameSent s len).traffic
    obtain ⟨es, hex, hes⟩ := hend.exchanged
    have hle := hes.length_le
    have hT := T.isLt
    change u.trace.length ≤ _
    rw [hsent.par] at hle
    rw [hex.traffic.trace, hsent.trace, List.length_append, List.length_append, frameWrite_length, frame_length,
      bufBytes_length]
    omega

/-! ### A prompt device (spec/42_protocol_engine R150) -/

/-- A poll reads the byte that stands first in the device's script. -/
theorem pollDone_of_script {q v : Byte} {later : List Byte} {s : State} (h : s.dev = v :: later) :
    pollValue q s = v ∧ (pollDone q s).dev = later := by
  constructor
  · simp [pollValue, deviceByte, spiWrite_eq, h]
  · rw [(wired_pollDone q s).traffic.script, h]
    rfl

/-- A wait whose first poll reads 0x01 is that poll. -/
theorem waitDone_of_script {p : Config.Params} {later : List Byte} {s : State} (T : Nat) (h : s.dev = 0x01 :: later) :
    waitDone p T s = setReady 0x01 (pollDone p.statusReq s) := by
  have hv := (pollDone_of_script (q := p.statusReq) h).1
  rw [waitDone, waitReady, waitLoop_succ, statusPoll, run_statusPollWith, hv]
  rfl

/-- What such a wait does. -/
theorem waitDone_prompt {p : Config.Params} {later : List Byte} {s t : State} {T : Nat} (h : s.dev = 0x01 :: later)
    (ht : waitDone p T s = t) :
    t.ready = true ∧ t.dev = later ∧ t.trace = s.trace ++ pollExchange p.statusReq 0x01 := by
  obtain ⟨hv, hdev⟩ := pollDone_of_script (q := p.statusReq) h
  have htrace := (wired_pollDone p.statusReq s).traffic.trace
  rw [hv] at htrace
  rw [← ht, waitDone_of_script T h]
  exact ⟨rfl, hdev, htrace⟩

/-- With a prompt device a request completes. -/
theorem requestEnds_of_prompt {s : State} (T : BitVec 16) {later : List Byte}
    (h : s.dev = 0x01 :: (ackBytes ++ 0x01 :: later)) :
    ∃ t, RequestEnds s T .ok t ∧ t.ready = true ∧ t.dev = later ∧
      t.trace = s.trace ++ (pollExchange s.par.statusReq 0x01 ++ bytesRead s.par ackBytes ++
        pollExchange s.par.statusReq 0x01) := by
  obtain ⟨hready, hdev, htrace⟩ := waitDone_prompt (p := s.par) (T := T.toNat) h rfl
  have hack : readBytes s.par 6 _ = ackBytes := readBytes_of_script hdev
  obtain ⟨hread, hdev'⟩ := wired_readDone_of_script (p := s.par) hdev
  obtain ⟨hready2, hdev2, htrace2⟩ := waitDone_prompt (p := s.par) (T := T.toNat) hdev' rfl
  refine ⟨_, .complete rfl hready ((isAck_iff _).mpr hack) rfl hready2, hready2, hdev2, ?_⟩
  refine htrace2.trans ?_
  rw [hread.traffic.trace, htrace]
  simp only [List.append_assoc]

end Sys2Proof.Machine

open Sys2Proof Sys2Proof.Machine

/-- Settles O28: a request in range sends its frame and goes one of the four ways of `RequestEvents`. -/
theorem requestOutcomes : Obligations.RequestOutcomes := by
  intro s len T hlen hT
  obtain ⟨c, t, hend⟩ := exists_requestEnds (frameSent s len) T
  have hsent := wired_frameSent s len
  have hss := hend.ss
  have hexec := hend.exec_cmd (Nat.not_lt.mpr hlen) hT
  obtain ⟨es, hex, hes⟩ := hend.exchanged
  have hall := hsent.exchanged.trans hex
  rw [hsent.traffic.par] at hes
  obtain ⟨htraffic, hhost, hrxinfo, hbuf, hrdata⟩ :=
    hall.withLife (if c = .ok then .complete else .failed) c false (s.draw + 1)
  generalize hready : t.ready = ready at hes
  cases hes with
  | late hvs =>
    exact ⟨_, _, [], [], _, hexec, htraffic, hhost, hrxinfo, hbuf, hrdata, hss,
      .inl ⟨hvs, rfl, ⟨rfl, rfl, rfl⟩, rfl, hready⟩⟩
  | unacknowledged hvs hlen6 ha =>
    exact ⟨_, _, _, [], _, hexec, htraffic, hhost, hrxinfo, hbuf, hrdata, hss,
      .inr (.inl ⟨hvs, hlen6, ha, by simp only [List.append_assoc]; rfl, ⟨rfl, rfl, rfl⟩, rfl, hready⟩)⟩
  | lateAgain hvs hws =>
    exact ⟨_, _, _, _, _, hexec, htraffic, hhost, hrxinfo, hbuf, hrdata, hss,
      .inr (.inr (.inl ⟨hvs, rfl, hws, by simp only [List.append_assoc]; rfl, ⟨rfl, rfl, rfl⟩, rfl, hready⟩))⟩
  | complete hvs hws =>
    exact ⟨_, _, _, _, _, hexec, htraffic, hhost, hrxinfo, hbuf, hrdata, hss,
      .inr (.inr (.inr ⟨hvs, rfl, hws, by simp only [List.append_assoc]; rfl, ⟨rfl, rfl, rfl⟩, rfl, hready⟩))⟩

/-- Settles O29: the frame takes nothing from the script, and each later part of the request finds its bytes there. -/
theorem promptDeviceCompletesTheRequest : Obligations.PromptDeviceCompletesTheRequest := by
  intro s len T later hlen hT hdev
  have hsent := (wired_frameSent s len).traffic
  have hdev' : (frameSent s len).dev = 0x01 :: (ackBytes ++ 0x01 :: later) := by
    rw [hsent.script, readsOf_frameWrite, hdev]
    rfl
  obtain ⟨t, hend, hready, hlater, htrace⟩ := requestEnds_of_prompt T hdev'
  refine ⟨_, hend.exec_cmd (Nat.not_lt.mpr hlen) hT, rfl, rfl, hready, hlater, htrace.trans ?_⟩
  rw [hsent.trace, hsent.par]
  simp only [List.append_assoc]
  rfl

/-- Settles O34: every instruction is a program run to its end, a command word's ends by `finish`, and CMD's events and
end are those of a request. -/
theorem everyOperationEnds : Obligations.EveryOperationEnds := by
  intro i s
  obtain ⟨bytes, hrun⟩ := exec_eq_run_supply i
  refine ⟨_, hrun s, fun hi => ?_, ?_⟩
  · exact (program_fits i s.par).run_busy (by simp [mayWrite, hi]) _
  · rintro len T rfl
    refine ⟨cmd_trace_length_le (hrun s), fun hres => ?_⟩
    obtain h | ⟨c, u, -, h⟩ := exec_cmd_cases (hrun s)
    · rw [h] at hres
      exact absurd rfl hres
    · rw [h]
      by_cases hc : c = .ok
      · exact .inl (if_pos hc)
      · exact .inr (if_neg hc)
end

section
/-! SUPPORT. A program run for as many events as its procedures make, what a read finds in the first poll of a request,
and that the host's queue never comes to hold a bare wire transaction. -/

namespace Sys2Proof.Machine

/-! ### Procedures run for their own events -/

theorem Prog.advance_writes (bs : List Byte) (next : Prog) (k : Nat) (s : State) :
    (Prog.writes bs next).advance (bs.length + k) s = next.advance k (spiWrites bs s) := by
  induction bs generalizing s with
  | nil => rw [List.length_nil, Nat.zero_add]; rfl
  | cons b bs ih => rw [List.length_cons, Nat.add_right_comm]; exact ih (spiWrite b s)

/-- The payload loop makes one event for each staged byte. -/
theorem advance_sendPayload (i n : Nat) (sum : Byte) (next : Byte → Prog) (k : Nat) (s : State) :
    (sendPayload i n sum next).advance (n + k) s =
      (next (sum + sum8 (bufBytes s i n))).advance k (spiWrites (bufBytes s i n) s) := by
  induction n generalizing i sum s with
  | zero => simp [sendPayload, bufBytes, spiWrites]
  | succ n ih =>
    rw [Nat.add_right_comm]
    refine (ih (i + 1) (sum + bufByte s i) (spiWrite (bufByte s i) s)).trans ?_
    rw [(coreKept_spiWrite (bufByte s i) s).bufBytes, BitVec.add_assoc]
    rfl

/-- `TxFrame` makes the events of its frame write: what comes after them is what comes next. -/
theorem exists_advance_txFrame (p : Config.Params) (d : Byte) (n k : Nat) (next : Prog) (s : State) :
    ∃ t, (txFrame p d n next).advance (p.txPrefix.length + (n + 8) + 2 + k) s = next.advance k t ∧ CoreKept s t := by
  have hcount : p.txPrefix.length + (n + 8) + 2 + k = p.txPrefix.length + (3 + (3 + (n + (2 + (k + 1))))) + 1 := by
    omega
  rw [hcount]
  refine ⟨_, (Prog.advance_writes p.txPrefix _ _ (select s)).trans <| (Prog.advance_writes startBytes _ _ _).trans <|
    (Prog.advance_writes [lenByte n, neg8 (lenByte n), d] _ _ _).trans <| (advance_sendPayload 0 n d _ _ _).trans <|
      Prog.advance_writes [neg8 _, postamble] (.deselect next) (k + 1) _, ?_⟩
  exact (coreKept_select s).trans <| (wired_spiWrites _ _).kept.trans <| (wired_spiWrites _ _).kept.trans <|
    (wired_spiWrites _ _).kept.trans <| (wired_spiWrites _ _).kept.trans <| (wired_spiWrites _ _).kept.trans
      (coreKept_deselect _)

/-- A status poll that is under way has changed nothing but the pins, their records and the script. -/
theorem exists_advance_statusPollWith (q : Byte) (next : Byte → Prog) {k : Nat} (hk : k < 4) (s : State) :
    ∃ t rest, (statusPollWith q next).advance k s = (t, some rest) ∧ CoreKept s t := by
  have hwritten := (coreKept_select s).trans (coreKept_spiWrite q _)
  match k with
  | 0 => exact ⟨_, _, rfl, .refl s⟩
  | 1 => exact ⟨_, _, rfl, coreKept_select s⟩
  | 2 => exact ⟨_, _, rfl, hwritten⟩
  | 3 => exact ⟨_, _, rfl, hwritten.trans (coreKept_spiRead _)⟩

/-- From the end of its frame to the end of its first poll a request shows AwaitingReady1 (spec/42_protocol_engine
R151). -/
theorem exists_advance_cmdProg {p : Config.Params} {len : Byte} {T : BitVec 16} {k : Nat} (hlen : len.toNat ≤ 62)
    (hT : T ≠ 0) (hk : k < 4) (s : State) :
    ∃ t rest, (cmdProg p len T).advance (p.txPrefix.length + (len.toNat + 8) + 2 + k) s = (t, some rest) ∧
      t.eng = .awaitingReady1 ∧ t.answers = s.answers := by
  have hok : ¬ (badLength len || badTimeout T) = true := by
    rw [Bool.or_eq_true, badLength_iff, badTimeout_iff]
    exact not_or_intro (Nat.not_lt.mpr hlen) hT
  obtain ⟨t, hadv, hkept⟩ := exists_advance_txFrame p dirHostToDevice len.toNat k
    (.eng .commandSent <| .eng .awaitingReady1 <| waitReady p T.toNat (cmdAfterWait1 p T)) (setEng .idle s)
  obtain ⟨u, rest, hpoll, hkept'⟩ := exists_advance_statusPollWith p.statusReq _ hk
    (setEng .awaitingReady1 (setEng .commandSent t))
  refine ⟨u, rest, ?_, hkept'.eng, hkept'.answers.trans hkept.answers⟩
  rw [cmdProg, if_neg hok]
  exact hadv.trans hpoll

/-! ### The host's queue (spec/70_reset_and_hazards R232) -/

theorem Prog.cutByte_host (pr : Prog) (slots : Nat) (s : State) : (pr.cutByte slots s).host = s.host := by
  cases pr with
  | write b next => rw [Prog.cutByte, writeSlots_eq]
  | read next => rw [Prog.cutByte, readSlots_eq]
  | _ => rfl

/-- A program run for some events leaves the host's queue as it was. -/
theorem Prog.advance_host (pr : Prog) (k : Nat) (s : State) : (pr.advance k s).1.host = s.host := by
  have hrun := pr.advance_run k s
  have hhost := (pr.run_hostSide s).1.host
  rcases hadv : pr.advance k s with ⟨t, _ | rest⟩
  · simp only [hadv] at hrun
    rw [hrun, hhost]
  · simp only [hadv] at hrun
    rw [← (rest.run_hostSide t).1.host, hrun, hhost]

theorem OnlyHostActs.of_host {s t : State} (h : OnlyHostActs s) (hh : t.host = s.host) : OnlyHostActs t :=
  fun bytes hmem => h bytes (hh ▸ hmem)

theorem BusyTouch.afterwards_ne_wire (a : BusyTouch) (bytes : List Byte) : a.afterwards ≠ .wire bytes := by
  cases a <;> nofun

/-- What comes after an operation instead of during it is an act of R232 too. -/
theorem OnlyHostActs.requeue {s : State} (h : OnlyHostActs s) (acts : List BusyAct) :
    OnlyHostActs (requeue acts s) := by
  intro bytes hmem
  rw [requeue_host, List.mem_append, List.mem_map] at hmem
  obtain ⟨a, -, ha⟩ | hmem := hmem
  · exact a.touch.afterwards_ne_wire bytes ha
  · exact h bytes hmem

/-- An operation with the host beside it leaves only acts of R232 to come. -/
theorem OnlyHostActs.runBusy {s : State} (h : OnlyHostActs s) (acts : List BusyAct) (pr : Prog) :
    OnlyHostActs (runBusy acts pr s) := by
  induction acts generalizing pr s with
  | nil => exact h.of_host (pr.run_hostSide s).1.host
  | cons a acts ih =>
    have hhost := pr.advance_host a.after s
    rw [Machine.runBusy]
    rcases hadv : pr.advance a.after s with ⟨t, _ | rest⟩
    all_goals
      rw [hadv] at hhost
      have ht : OnlyHostActs t := h.of_host hhost
    · exact ht.requeue (a :: acts)
    · cases a.touch with
      | read r => exact ih (s := answer r t) (ht.of_host rfl) rest
      | write r x => exact ih (s := writeWhileBusy r t) (ht.of_host (by cases r <;> rfl)) rest
      | reset slots => exact OnlyHostActs.requeue (s := hardReset _) (ht.of_host (rest.cutByte_host slots t)) acts

theorem OnlyHostActs.acted {a : HostAct} {s t : State} (h : OnlyHostActs s) (ha : Acted s a t) : OnlyHostActs t := by
  cases ha with
  | read r => exact h
  | dropped x acts _ | ignored r x acts _ => exact h.requeue acts
  | issued x acts _ => exact OnlyHostActs.runBusy (s := accept s) h acts _
  | reset => exact h
  | wire bytes given i _ => exact h.of_host ((program i s.par).run_hostSide (supply given s)).1.host

/-- Every act but a bare wire transaction answers a next state. -/
theorem exists_hostAct {a : HostAct} (h : ∀ bytes, a ≠ .wire bytes) (s : State) : ∃ t, hostAct a s = .next t := by
  cases a with
  | read r => exact ⟨_, rfl⟩
  | write r x acts =>
    cases r with
    | cmdw =>
      cases hb : s.busy with
      | true => exact ⟨_, issue_of_busy hb x acts⟩
      | false => exact ⟨_, issue_of_idle hb x acts⟩
    | _ => exact ⟨_, rfl⟩
  | reset => exact ⟨_, rfl⟩
  | wire bytes => exact absurd rfl (h bytes)

end Sys2Proof.Machine

open Sys2Proof Sys2Proof.Machine

/-- Settles O50: the frame's events bring CMD to its first poll with ENG = AwaitingReady1, and the poll does not write
ENG. -/
theorem requestShowsAwaitingReady1 : Obligations.RequestShowsAwaitingReady1 := by
  intro s len T k later hb hlen hT hk hh
  rw [frameWrite_length, frame_length, bufBytes_length] at hh
  obtain ⟨t, rest, hadv, heng, hanswers⟩ :=
    exists_advance_cmdProg (p := s.par) hlen hT hk { s with host := later, busy := true }
  refine ⟨rest.run (answer .status t), statusWord t, ?_, ?_, ?_⟩
  · rw [step_of_command hb hh, decodeWord_encodeWord rfl rfl, program, runBusy, hadv]
    rfl
  · rw [(rest.run_hostSide _).1.answers, answer_answers, hanswers]
    rfl
  · rw [statusWord_eng, heng]
    rfl

/-- Settles O55: the next act is no bare wire transaction, so it answers, and what it puts back in the queue is none
either. -/
theorem hostActsNeverStopTheMachine : Obligations.HostActsNeverStopTheMachine := by
  intro s h
  cases hh : s.host with
  | nil => exact ⟨s, step_of_host_nil hh, h⟩
  | cons a later =>
    have hne : ∀ bytes, a ≠ .wire bytes := fun bytes ha => h bytes (hh ▸ ha ▸ List.mem_cons_self)
    have hlater : OnlyHostActs { s with host := later } := fun bytes hmem =>
      h bytes (hh ▸ List.mem_cons_of_mem a hmem)
    obtain ⟨t, ht⟩ := exists_hostAct hne { s with host := later }
    exact ⟨t, (step_of_host_cons hh).trans ht, hlater.acted (acted_of_hostAct ht)⟩

/-- Settles O47: an empty queue is the step's first case. -/
theorem nothingHappensWithoutTheHost : Obligations.NothingHappensWithoutTheHost := fun _ => step_of_host_nil
end

section
/-! SUPPORT. The byte a read of BUF gives, written or not. -/

namespace Sys2Proof.Machine

theorem bufByte_of_written {s : State} {i : Nat} {v : Byte} (h : s.buf.get? i = some v) : bufByte s i = v := by
  rw [bufByte, h, Option.getD_some]

/-- A byte not written since reset reads as the free value (R22; log entry 3). -/
theorem bufByte_of_unwritten {s : State} {i : Nat} (h : s.buf.get? i = none) :
    bufByte s i = Config.unwritten s.draw i := by
  rw [bufByte, h, Option.getD_none]

end Sys2Proof.Machine

open Sys2Proof Sys2Proof.Machine

/-- Settles O10: in range STB is one store and a finish, and out of range it is turned away (O35). -/
theorem storeByteWritesOneByte : Obligations.StoreByteWritesOneByte := by
  intro s i v
  by_cases h : i.toNat < s.par.bufCap
  · refine ⟨_, exec_stb_of_lt v h, ?_⟩
    rw [if_pos h]
    exact ⟨⟨rfl, rfl, rfl⟩, (Traffic.refl s).of_fields rfl rfl rfl rfl rfl rfl rfl, ⟨rfl, rfl, rfl⟩,
      ⟨rfl, rfl, rfl⟩, rfl, rfl, rfl, Memory.get?_set_same .., fun _ => Memory.get?_set_ne _ v⟩
  · obtain ⟨hstb, _⟩ := operandsOutOfRangeAreTurnedAway s i v 0
    simp only [if_neg h]
    exact hstb (Nat.not_lt.mp h)

/-- Settles O11: in range LDB puts `bufByte` into RDATA and finishes, and out of range it is turned away (O35). -/
theorem loadByteReadsTheBuffer : Obligations.LoadByteReadsTheBuffer := by
  intro s i
  by_cases h : i.toNat < s.par.bufCap
  · refine ⟨_, exec_ldb_of_lt h, ?_⟩
    rw [if_pos h]
    exact ⟨⟨rfl, rfl, rfl⟩, (Traffic.refl s).of_fields rfl rfl rfl rfl rfl rfl rfl, ⟨rfl, rfl, rfl⟩,
      ⟨rfl, rfl, rfl⟩, fun _ => rfl, rfl, rfl, fun _ => bufByte_of_written, bufByte_of_unwritten⟩
  · obtain ⟨_, hldb, _⟩ := operandsOutOfRangeAreTurnedAway s i 0 0
    simp only [if_neg h]
    exact hldb (Nat.not_lt.mp h)
end

section
/-! SUPPORT. The codes an operation can end with, and what is left for a step to refuse. -/

namespace Sys2Proof.Machine

/-! ### Result codes (spec/60_exceptions R181, R182) -/

/-- Turned away by its operand check an operation ends BadArg, else as what follows the check. -/
theorem result_mem_of_check {bad : Bool} {pr : Prog} {s : State} {codes : List Code} (hbad : .badArg ∈ codes)
    (h : (pr.run s).result ∈ codes) :
    ((if bad = true then .finish .badArg else pr).run s).result ∈ codes := by
  split
  · exact hbad
  · exact h

theorem Decoded.code_mem (d : Decoded) :
    d.code ∈ [.ok, .badArg, .shortFrame, .preambleMismatch, .lengthChecksumMismatch, .payloadChecksumMismatch] := by
  cases d with
  | ok dir payload => exact List.mem_cons_self
  | error e => cases e <;> decide

theorem RequestEnds.code_mem {s t : State} {T : BitVec 16} {c : Code} (h : RequestEnds s T c t) :
    c ∈ [.ok, .badArg, .timeout, .ackMismatch] := by
  cases h <;> decide

theorem cmd_result_mem {s t : State} {len : Byte} {T : BitVec 16} (h : exec (.cmd len T) s = .next t) :
    t.result ∈ [.ok, .badArg, .timeout, .ackMismatch] := by
  obtain rfl | ⟨c, u, hend, rfl⟩ := exec_cmd_cases h
  · exact List.mem_cons_of_mem _ List.mem_cons_self
  · exact hend.code_mem

/-! ### Bytes on the wire (log entry 17) -/

/-- Bytes that decode to a wire format run it, and all others are refused by name. -/
theorem wireTransaction_cases (bytes : List Byte) (s : State) :
    (∃ t, wireTransaction bytes s = .next t) ∨
      wireTransaction bytes s = .refused .notAWireFormat ∧ ∀ i, decode bytes = .ok i → isWireFormat i = false := by
  rw [wireTransaction]
  cases decode bytes with
  | reject r => exact .inr ⟨rfl, nofun⟩
  | ok i =>
    by_cases hi : isWireFormat i = true
    · obtain ⟨given, hexec⟩ := exec_eq_run_supply i
      exact .inl ⟨_, (if_pos hi).trans (hexec s)⟩
    · refine .inr ⟨if_neg hi, ?_⟩
      rintro _ ⟨⟩
      exact Bool.eq_false_of_not_eq_true hi

end Sys2Proof.Machine

open Sys2Proof Sys2Proof.Machine

/-- Settles O36, operation by operation: an operand check adds BadArg to the codes of what follows it. -/
theorem resultCodesByOperation : Obligations.ResultCodesByOperation := by
  intro i s t hi h
  cases (exec_eq_run i s hi).symm.trans h
  cases i with
  | sel | dsl | wrb | rdb => exact List.mem_cons_self
  | stb | ldb => exact result_mem_of_check (by simp) (by simp)
  | txc len => exact result_mem_of_check (by simp) (by simp [run_txFrame])
  | dec n =>
    refine result_mem_of_check (by simp) ?_
    rw [run_decodeBuf]
    exact Decoded.code_mem _
  | poll =>
    rw [program, pollProg, statusPoll, run_statusPollWith]
    exact List.mem_cons_self
  | wrdy T =>
    refine result_mem_of_check (by simp) ?_
    rw [run_waitReady_eq]
    dsimp only
    split <;> simp
  | rack =>
    rw [program, rackProg, run_readAck]
    dsimp only
    split <;> simp
  | rdf n =>
    refine result_mem_of_check (by simp) ?_
    rw [run_rawRead, run_decodeBuf]
    exact Decoded.code_mem _
  | cmd len T => exact cmd_result_mem h
  | reservedOp0 | reservedOpE | reservedOpF | reservedHighNibble => exact List.mem_cons_self
  | frame | ack | statusExchange => cases hi

/-- Settles O57: with an act to do, only a bare wire transaction can fail to answer, and `wireTransaction_cases` says
when it does. -/
theorem stepStopsOnlyOnUnknownWireBytes : Obligations.StepStopsOnlyOnUnknownWireBytes := by
  intro s
  cases hh : s.host with
  | nil => exact .inl ⟨s, step_of_host_nil hh⟩
  | cons a later =>
    rw [step_of_host_cons hh]
    cases a with
    | wire bytes =>
      obtain hnext | ⟨hrefused, hbytes⟩ := wireTransaction_cases bytes { s with host := later }
      · exact .inl hnext
      · exact .inr ⟨bytes, later, rfl, hrefused, hbytes⟩
    | read | write | reset =>
      refine .inl (exists_hostAct ?_ _)
      nofun
end

section
/-! SUPPORT. Reset: the words of the registers after it, and what a byte that it cuts leaves as it was. -/

namespace Sys2Proof.Machine

/-! ### The registers after a reset (spec/10_state R32) -/

@[simp] theorem statusWord_hardReset (s : State) : statusWord (hardReset s) = 0x00000004 := by
  show statusWord State.reset = 0x00000004
  rfl

@[simp] theorem rdataWord_hardReset (s : State) : rdataWord (hardReset s) = 0 := by
  show rdataWord State.reset = 0
  rfl

@[simp] theorem rxinfoWord_hardReset (s : State) : rxinfoWord (hardReset s) = 0 := by
  show rxinfoWord State.reset = 0
  rfl

/-! ### A reset that cuts an operation (spec/70_reset_and_hazards R211) -/

/-- A byte that a reset cuts is not taken from the device (log entry 11). -/
theorem Prog.cutByte_dev (pr : Prog) (slots : Nat) (s : State) : (pr.cutByte slots s).dev = s.dev := by
  cases pr with
  | write b next => rw [Prog.cutByte, writeSlots_eq]
  | read next => rw [Prog.cutByte, readSlots_eq]
  | _ => rfl

/-- A reset after `k` events of an operation is `hardReset` of a state with exactly those events behind it, whatever
bit slots of a cut byte were still clocked. -/
theorem step_of_reset_while_busy {s : State} {x : Word} {k slots : Nat} {es : List Event} {later : List HostAct}
    (hb : s.busy = false) (hh : s.host = .write .cmdw x [⟨k, .reset slots⟩] :: later)
    (htrace : ((program (decodeWord x) s.par).run s).trace = s.trace ++ es) (hk : k ≤ es.length) :
    ∃ cut, step s = .next (hardReset cut) ∧ cut.trace = s.trace ++ es.take k ∧ cut.par = s.par ∧
      cut.host = later ∧ cut.dev = s.dev.drop (readsOf (es.take k)).length := by
  obtain ⟨seen, rest, hadv, hseen⟩ := Prog.advance_events _ k { s with host := later, busy := true } es
    ((Prog.run_accept_trace _ later s).trans htrace) hk
  obtain ⟨hpar, htr⟩ := rest.cutByte_par_trace slots seen
  refine ⟨rest.cutByte slots seen, ?_, htr.trans hseen.traffic.trace, hpar.trans hseen.traffic.par,
    (rest.cutByte_host slots seen).trans hseen.host, (rest.cutByte_dev slots seen).trans hseen.traffic.script⟩
  rw [step_of_command hb hh, runBusy, hadv]
  rfl

end Sys2Proof.Machine

open Sys2Proof Sys2Proof.Machine

/-- Settles O45: the cut state has the first `k` events behind it, and reset keeps its trace, parameters, queue and
script alone. -/
theorem resetCutsTheOperation : Obligations.ResetCutsTheOperation := by
  intro s u x k slots es later hb hh hexec htrace hk
  cases (exec_eq_run _ s (isWireFormat_decodeWord x)).symm.trans hexec
  obtain ⟨cut, hstep, htr, hpar, hhost, hdev⟩ := step_of_reset_while_busy hb hh htrace hk
  exact ⟨hardReset cut, hstep, htr, rfl, congrArg Config.Params.cpol hpar, rfl, statusWord_hardReset cut,
    rdataWord_hardReset cut, rxinfoWord_hardReset cut, Memory.get?_nil, hpar, hhost, hdev⟩

/-- Settles O32: a written byte reads as it was written. -/
theorem writtenBytesAreUsedAsWritten : Obligations.WrittenBytesAreUsedAsWritten := by
  intro s n hduty k hk
  have hwritten : (s.buf.get? k).isSome = true := List.all_eq_true.mp hduty k (List.mem_range.mpr hk)
  obtain ⟨v, hv⟩ := Option.isSome_iff_exists.mp hwritten
  rw [bufBytes_getElem? s 0 hk, Nat.zero_add, bufByte_of_written hv, hv]

/-- Settles O33: an operation is a program run to its end, and SS at the beginning of a program shows in SS alone. -/
theorem openBracketIsNotDetected : Obligations.OpenBracketIsNotDetected := by
  intro i s t level hi h
  cases (exec_eq_run i s hi).symm.trans h
  obtain ⟨last, hrun⟩ := (program i s.par).run_withSs level s
  exact ⟨withSs last ((program i s.par).run s), (exec_eq_run i (withSs level s) hi).trans (congrArg _ hrun), rfl⟩

/-- Settles O44: the act is `hardReset`, which keeps the trace, the parameters and what stands beside SPI-LINK. -/
theorem resetActRestoresTheResetValues : Obligations.ResetActRestoresTheResetValues := by
  intro s later hh
  exact ⟨hardReset { s with host := later }, step_of_host_cons hh, rfl, rfl, rfl, statusWord_hardReset _,
    rdataWord_hardReset _, rxinfoWord_hardReset _, Memory.get?_nil, rfl, rfl, rfl, rfl, rfl⟩
end
